-- ==== Sys2Proof/Word.lean ====
section
/-! DEFINITION. The byte and the 64-bit word. Registers and VMCS fields of every width of the spec are held in these
types (00_scope.md R7, R13; log 7). -/

namespace Sys2Proof

/-- 8 bits (20_memory.md R82). -/
abbrev Byte := BitVec 8

/-- 64 bits: a general register, a pointer, a value of a VMCS field (00_scope.md R7). -/
abbrev Word := BitVec 64

end Sys2Proof
end

