-- ==== Sys2Proof/Syntax.lean ====
section
/-! DEFINITION. The instructions: one constructor of `Instr` for each row of spec/opcode_table.json
(30_encoding.md R110, R120, R124), and their operand forms (R114 to R119, general knowledge; log 12, log 13). -/

namespace Sys2Proof

/-- The general registers, in the order of their codes (10_state.md R40 names RAX and RSP; the others are PRESUMED,
log 6). -/
inductive Reg
  | rax | rcx | rdx | rbx | rsp | rbp | rsi | rdi
  | r8 | r9 | r10 | r11 | r12 | r13 | r14 | r15
  deriving DecidableEq, Repr

/-- The segment registers of 10_state.md R43. -/
inductive Seg
  | cs | ss | ds | es | fs | gs | ldtr | tr
  deriving DecidableEq, Repr

/-- A displacement of a memory operand: none, 8 bits or 32 bits (30_encoding.md R119). -/
inductive Disp
  | none
  | d8 (d : BitVec 8)
  | d32 (d : BitVec 32)
  deriving DecidableEq, Repr

/-- The base registers of a 16-bit addressing form, in the order of their codes: BX+SI, BX+DI, BP+SI, BP+DI, SI, DI, BP,
BX (the base architecture's table, R119; PRESUMED, log 13). -/
inductive Base16
  | bxSi | bxDi | bpSi | bpDi | si | di | bp | bx
  deriving DecidableEq, Repr

/-- A displacement of a 16-bit addressing form: none, 8 bits or 16 bits (log 13). -/
inductive Disp16
  | none
  | d8 (d : BitVec 8)
  | d16 (d : BitVec 16)
  deriving DecidableEq, Repr

/-- The addressing forms that a ModR/M byte with mod other than 11B selects (30_encoding.md R119). -/
inductive AddrForm
  /-- `[base + disp]`: no SIB byte. -/
  | base (b : Reg) (d : Disp)
  /-- mod 00, rm 101: relative to the next instruction in 64-bit mode, an absolute address elsewhere. -/
  | rel (d : BitVec 32)
  /-- A SIB byte with a base: `[base + index * 2^scale + disp]`. Index RSP stands for no index. -/
  | sib (b : Reg) (scale : BitVec 2) (index : Reg) (d : Disp)
  /-- A SIB byte without a base (mod 00, base 101): `[index * 2^scale + disp]`. -/
  | sibNoBase (scale : BitVec 2) (index : Reg) (d : BitVec 32)
  /-- With 16-bit addresses: base registers and a displacement. -/
  | base16 (b : Base16) (d : Disp16)
  /-- With 16-bit addresses, mod 00, rm 110: an absolute address. -/
  | abs16 (d : BitVec 16)
  deriving DecidableEq, Repr

/-- A memory operand: its segment override, if any, whether a `67H` prefix stands before it, and its addressing form
(30_encoding.md R114, R118, R119). -/
structure MemOperand where
  seg : Option Seg
  addrPrefix : Bool
  form : AddrForm
  deriving DecidableEq, Repr

/-- A register or memory operand (30_encoding.md R115, R119). -/
inductive RmOperand
  | reg (r : Reg)
  | mem (m : MemOperand)
  deriving DecidableEq, Repr

/-- The instructions of 30_encoding.md R110, one constructor for each row of spec/opcode_table.json. -/
inductive Instr
  | vmcall
  | vmlaunch
  | vmresume
  | vmxoff
  | vmptrld (m : MemOperand)
  | vmclear (m : MemOperand)
  | vmxon (m : MemOperand)
  | vmptrst (m : MemOperand)
  /-- `VMREAD dst, field`: `field` holds the field encoding. -/
  | vmread (dst : RmOperand) (field : Reg)
  /-- `VMWRITE field, src`: `field` holds the field encoding. -/
  | vmwrite (field : Reg) (src : RmOperand)
  | cpuid
  | wrmsr
  /-- `MOV CRn, r`: control register number (REX.R with ModRM.reg) and source. -/
  | movToCr (cr : BitVec 4) (src : Reg)
  /-- `MOV r, CRn`: destination and control register number. -/
  | movFromCr (dst : Reg) (cr : BitVec 4)
  | clts
  | lmsw (src : RmOperand)
  | getsec
  | hlt
  | mwait
  | sti
  deriving DecidableEq, Repr

/-- What the code segment makes of the same bytes: 16-bit, 32-bit or 64-bit code (10_state.md R47, bits 13 and 14; the
address size that follows is PRESUMED, log 13). -/
inductive CodeSize
  | code16 | code32 | code64
  deriving DecidableEq, Repr

/-- Why bytes are no instruction of this spec (30_encoding.md R118 to R121). -/
inductive DecodeError
  /-- The bytes end before the instruction does. -/
  | truncated
  /-- The instruction would be longer than 15 bytes (R118). -/
  | tooLong
  /-- A one-byte opcode that is no row of the table. -/
  | unknownOpcode (b : Byte)
  /-- `0FH` and a second opcode byte that is no row of the table. -/
  | unknownOpcode0F (b : Byte)
  /-- A ModR/M byte that extends the opcode to no row of the table (R121 for the register forms of `0F C7`). -/
  | unknownExtension (opcode modrm : Byte)
  /-- A prefix `66H`, `F2H` or `F3H` where the row excludes it (R120, "NP"). -/
  | prefixForbidden (opcode : Byte)
  deriving DecidableEq, Repr

end Sys2Proof
end

