-- ==== Sys2Proof/WellFormed.lean ====
section
/-! DEFINITION. Which terms of `Instr` an encoding of 30_encoding.md R119, R120 can spell. A check that fails means that
no byte string stands for the term. -/

namespace Sys2Proof

/-- The three low bits of the register's code are 100B: as `rm` it selects a SIB byte (30_encoding.md R119). -/
def Reg.isSibCode : Reg → Bool
  | .rsp | .r12 => true
  | _ => false

/-- The three low bits of the register's code are 101B: with mod 00 it selects a form without a base. -/
def Reg.isNoBaseCode : Reg → Bool
  | .rbp | .r13 => true
  | _ => false

/-- A base register without a displacement must not spell the form without a base. -/
def Disp.fits (d : Disp) (b : Reg) : Bool :=
  match d with
  | .none => !b.isNoBaseCode
  | .d8 _ => true
  | .d32 _ => true

/-- BP without a displacement spells the absolute form of 16-bit addressing. -/
def Disp16.fits (d : Disp16) (b : Base16) : Bool :=
  match d with
  | .none => decide (b ≠ .bp)
  | .d8 _ => true
  | .d16 _ => true

/-- The addressing forms a ModR/M byte can spell (30_encoding.md R119). -/
def AddrForm.wf : AddrForm → Bool
  | .base b d => !b.isSibCode && d.fits b
  | .rel _ => true
  | .sib b _ _ d => d.fits b
  | .sibNoBase _ _ _ => true
  | .base16 b d => d.fits b
  | .abs16 _ => true

/-- A segment override names one of the six segment registers that have a prefix (30_encoding.md R118); LDTR and TR
have none. -/
def segOverrideWf : Option Seg → Bool
  | none => true
  | some .ldtr => false
  | some .tr => false
  | some _ => true

/-- A memory operand that an encoding can spell. -/
def MemOperand.wf (m : MemOperand) : Bool := segOverrideWf m.seg && m.form.wf

/-- A register or memory operand that an encoding can spell. -/
def RmOperand.wf : RmOperand → Bool
  | .reg _ => true
  | .mem m => m.wf

/-- An instruction that an encoding of 30_encoding.md R120 can spell. -/
def Instr.wf : Instr → Bool
  | .vmcall => true
  | .vmlaunch => true
  | .vmresume => true
  | .vmxoff => true
  | .vmptrld m => m.wf
  | .vmclear m => m.wf
  | .vmxon m => m.wf
  | .vmptrst m => m.wf
  | .vmread dst _ => dst.wf
  | .vmwrite _ src => src.wf
  | .cpuid => true
  | .wrmsr => true
  | .movToCr _ _ => true
  | .movFromCr _ _ => true
  | .clts => true
  | .lmsw src => src.wf
  | .getsec => true
  | .hlt => true
  | .mwait => true
  | .sti => true

end Sys2Proof
end

