-- ==== Sys2Proof/Decode.lean ====
section
/-! DEFINITION. From bytes to instructions and back (30_encoding.md R118 to R123, all general knowledge; log 12,
log 13). `decode` is total and refuses by name; `encode` writes one byte string for each well-formed instruction. -/

namespace Sys2Proof

/-- The register with a given code (high bit from REX, low bits from ModR/M or SIB; 30_encoding.md R119). -/
def Reg.ofCode (hi : Bool) (lo : BitVec 3) : Reg :=
  match hi, lo.toNat with
  | false, 0 => .rax
  | false, 1 => .rcx
  | false, 2 => .rdx
  | false, 3 => .rbx
  | false, 4 => .rsp
  | false, 5 => .rbp
  | false, 6 => .rsi
  | false, _ => .rdi
  | true, 0 => .r8
  | true, 1 => .r9
  | true, 2 => .r10
  | true, 3 => .r11
  | true, 4 => .r12
  | true, 5 => .r13
  | true, 6 => .r14
  | true, _ => .r15

/-- The low three bits of a register's code. -/
def Reg.lo : Reg → BitVec 3
  | .rax | .r8 => 0
  | .rcx | .r9 => 1
  | .rdx | .r10 => 2
  | .rbx | .r11 => 3
  | .rsp | .r12 => 4
  | .rbp | .r13 => 5
  | .rsi | .r14 => 6
  | .rdi | .r15 => 7

/-- The bit of a register's code that a REX prefix carries. -/
def Reg.hi : Reg → Bool
  | .rax | .rcx | .rdx | .rbx | .rsp | .rbp | .rsi | .rdi => false
  | .r8 | .r9 | .r10 | .r11 | .r12 | .r13 | .r14 | .r15 => true

/-- The prefixes seen before the opcode (30_encoding.md R118). -/
structure Prefixes where
  opSize : Bool := false
  /-- The last of `F2H` and `F3H`: `some true` for `F3H`. -/
  rep : Option Bool := none
  seg : Option Seg := none
  addrPrefix : Bool := false
  rexR : Bool := false
  rexX : Bool := false
  rexB : Bool := false
  deriving DecidableEq, Repr

/-- Forget a REX prefix that does not stand directly before the opcode. -/
def Prefixes.noRex (p : Prefixes) : Prefixes := { p with rexR := false, rexX := false, rexB := false }

/-- None of the prefixes `66H`, `F2H`, `F3H` is present (30_encoding.md R120, "NP"). -/
def Prefixes.np (p : Prefixes) : Bool := !p.opSize && p.rep.isNone

/-- The segment a segment-override prefix names (30_encoding.md R118). -/
def segOfPrefix (b : Byte) : Option Seg :=
  if b = 0x26#8 then some .es
  else if b = 0x2E#8 then some .cs
  else if b = 0x36#8 then some .ss
  else if b = 0x3E#8 then some .ds
  else if b = 0x64#8 then some .fs
  else if b = 0x65#8 then some .gs
  else none

/-- A byte `40H` to `4FH` (30_encoding.md R118). -/
def isRex (b : Byte) : Bool := b.extractLsb' 4 4 == 4#4

/-- REX prefixes exist in 64-bit code only (30_encoding.md R118). -/
def CodeSize.hasRex : CodeSize → Bool
  | .code16 => false
  | .code32 => false
  | .code64 => true

/-- Addresses have 16 bits: in 16-bit code without `67H`, in 32-bit code with it (PRESUMED, log 13). -/
def CodeSize.addr16 (c : CodeSize) (addrPrefix : Bool) : Bool :=
  match c with
  | .code16 => !addrPrefix
  | .code32 => addrPrefix
  | .code64 => false

/-- Read the legacy prefixes and REX (30_encoding.md R118). A REX prefix counts only directly before the opcode. -/
def prefixes (c : CodeSize) : Prefixes → List Byte → Prefixes × List Byte
  | p, [] => (p, [])
  | p, b :: rest =>
    if b = 0x66#8 then prefixes c { p.noRex with opSize := true } rest
    else if b = 0xF2#8 then prefixes c { p.noRex with rep := some false } rest
    else if b = 0xF3#8 then prefixes c { p.noRex with rep := some true } rest
    else if b = 0x67#8 then prefixes c { p.noRex with addrPrefix := true } rest
    else if (segOfPrefix b).isSome then prefixes c { p.noRex with seg := segOfPrefix b } rest
    else if c.hasRex && isRex b then
      prefixes c { p with rexR := b.getLsbD 2, rexX := b.getLsbD 1, rexB := b.getLsbD 0 } rest
    else (p, b :: rest)

/-- ModR/M bits 7:6 (30_encoding.md R119). -/
def modOf (b : Byte) : BitVec 2 := b.extractLsb' 6 2

/-- ModR/M bits 5:3 (30_encoding.md R119). -/
def regOf (b : Byte) : BitVec 3 := b.extractLsb' 3 3

/-- ModR/M bits 2:0 (30_encoding.md R119). -/
def rmOf (b : Byte) : BitVec 3 := b.extractLsb' 0 3

/-- The ModR/M or SIB byte with these three parts, high to low. -/
def modrm (m : BitVec 2) (r b : BitVec 3) : Byte := m ++ (r ++ b)

/-- Four bytes, least significant first (30_encoding.md R119, 20_memory.md R89). -/
def takeD32 : List Byte → Except DecodeError (BitVec 32 × List Byte)
  | b0 :: b1 :: b2 :: b3 :: rest => .ok (b3 ++ (b2 ++ (b1 ++ b0)), rest)
  | _ => .error .truncated

/-- The displacement that `mod` announces (30_encoding.md R119). -/
def takeDisp (m : BitVec 2) (bs : List Byte) : Except DecodeError (Disp × List Byte) :=
  if m = 1#2 then
    match bs with
    | b :: rest => .ok (.d8 b, rest)
    | [] => .error .truncated
  else if m = 2#2 then (takeD32 bs).map (fun (d, rest) => (.d32 d, rest))
  else .ok (.none, bs)

/-- The addressing form of a ModR/M byte whose mod is not 11B (30_encoding.md R119). -/
def takeForm (p : Prefixes) (mb : Byte) (bs : List Byte) : Except DecodeError (AddrForm × List Byte) :=
  if rmOf mb = 4#3 then
    match bs with
    | [] => .error .truncated
    | sb :: rest =>
      let index := Reg.ofCode p.rexX (regOf sb)
      if modOf mb = 0#2 ∧ rmOf sb = 5#3 then
        (takeD32 rest).map (fun (d, rest) => (.sibNoBase (modOf sb) index d, rest))
      else
        (takeDisp (modOf mb) rest).map
          (fun (d, rest) => (.sib (Reg.ofCode p.rexB (rmOf sb)) (modOf sb) index d, rest))
  else if modOf mb = 0#2 ∧ rmOf mb = 5#3 then
    (takeD32 bs).map (fun (d, rest) => (.rel d, rest))
  else
    (takeDisp (modOf mb) bs).map (fun (d, rest) => (.base (Reg.ofCode p.rexB (rmOf mb)) d, rest))

/-- The base registers that `rm` selects with 16-bit addresses (log 13). -/
def Base16.ofCode (b : BitVec 3) : Base16 :=
  match b.toNat with
  | 0 => .bxSi
  | 1 => .bxDi
  | 2 => .bpSi
  | 3 => .bpDi
  | 4 => .si
  | 5 => .di
  | 6 => .bp
  | _ => .bx

/-- Two bytes, least significant first. -/
def takeD16 : List Byte → Except DecodeError (BitVec 16 × List Byte)
  | b0 :: b1 :: rest => .ok (b1 ++ b0, rest)
  | _ => .error .truncated

/-- The displacement that `mod` announces with 16-bit addresses (log 13). -/
def takeDisp16 (m : BitVec 2) (bs : List Byte) : Except DecodeError (Disp16 × List Byte) :=
  if m = 1#2 then
    match bs with
    | b :: rest => .ok (.d8 b, rest)
    | [] => .error .truncated
  else if m = 2#2 then (takeD16 bs).map (fun (d, rest) => (.d16 d, rest))
  else .ok (.none, bs)

/-- The 16-bit addressing form of a ModR/M byte whose mod is not 11B (log 13). -/
def takeForm16 (mb : Byte) (bs : List Byte) : Except DecodeError (AddrForm × List Byte) :=
  if modOf mb = 0#2 ∧ rmOf mb = 6#3 then (takeD16 bs).map (fun (d, rest) => (.abs16 d, rest))
  else (takeDisp16 (modOf mb) bs).map (fun (d, rest) => (.base16 (Base16.ofCode (rmOf mb)) d, rest))

/-- The memory operand of a ModR/M byte whose mod is not 11B. -/
def takeMem (c : CodeSize) (p : Prefixes) (mb : Byte) (bs : List Byte) :
    Except DecodeError (MemOperand × List Byte) :=
  (if c.addr16 p.addrPrefix then takeForm16 mb bs else takeForm p mb bs).map
    (fun (f, rest) => ({ seg := p.seg, addrPrefix := p.addrPrefix, form := f }, rest))

/-- The `r/m` operand of a ModR/M byte (30_encoding.md R119). -/
def takeRm (c : CodeSize) (p : Prefixes) (mb : Byte) (bs : List Byte) :
    Except DecodeError (RmOperand × List Byte) :=
  if modOf mb = 3#2 then .ok (.reg (Reg.ofCode p.rexB (rmOf mb)), bs)
  else (takeMem c p mb bs).map (fun (m, rest) => (.mem m, rest))

/-- The register of ModR/M bits 5:3. -/
def regField (p : Prefixes) (mb : Byte) : Reg := Reg.ofCode p.rexR (regOf mb)

/-- The control register number: REX.R above ModR/M bits 5:3 (30_encoding.md R120). -/
def crField (p : Prefixes) (mb : Byte) : BitVec 4 := BitVec.ofBool p.rexR ++ regOf mb

/-- The opcode `0F 01`: fixed third bytes and LMSW (30_encoding.md R120). -/
def decode0F01 (c : CodeSize) (p : Prefixes) : List Byte → Except DecodeError (Instr × List Byte)
  | [] => .error .truncated
  | mb :: rest =>
    if mb = 0xC1#8 then .ok (.vmcall, rest)
    else if mb = 0xC2#8 then .ok (.vmlaunch, rest)
    else if mb = 0xC3#8 then .ok (.vmresume, rest)
    else if mb = 0xC4#8 then .ok (.vmxoff, rest)
    else if mb = 0xC9#8 then .ok (.mwait, rest)
    else if regOf mb = 6#3 then (takeRm c p mb rest).map (fun (o, rest) => (.lmsw o, rest))
    else .error (.unknownExtension 0x01#8 mb)

/-- The opcode `0F C7`: the four pointer instructions, told apart by the mandatory prefix and ModR/M bits 5:3; their
register forms are other instructions (30_encoding.md R120, R121, R123). Where several prefixes stand
the choice is the model's (DESIGN CHOICE, log 12): `F3H` decides before `66H`, and `F2H` beside `66H` on `/6` is refused,
although the row of VMCLEAR is not NP and the spec says nothing of `F2H` there. (`F2H` alone is excluded by the NP of
VMPTRLD.) -/
def decode0FC7 (c : CodeSize) (p : Prefixes) : List Byte → Except DecodeError (Instr × List Byte)
  | [] => .error .truncated
  | mb :: rest =>
    if modOf mb = 3#2 then .error (.unknownExtension 0xC7#8 mb)
    else if regOf mb = 6#3 then
      match p.rep, p.opSize with
      | some true, _ => (takeMem c p mb rest).map (fun (m, rest) => (.vmxon m, rest))
      | some false, _ => .error (.prefixForbidden 0xC7#8)
      | none, true => (takeMem c p mb rest).map (fun (m, rest) => (.vmclear m, rest))
      | none, false => (takeMem c p mb rest).map (fun (m, rest) => (.vmptrld m, rest))
    else if regOf mb = 7#3 then
      if p.np then (takeMem c p mb rest).map (fun (m, rest) => (.vmptrst m, rest))
      else .error (.prefixForbidden 0xC7#8)
    else .error (.unknownExtension 0xC7#8 mb)

/-- The opcodes with a ModR/M byte and two operands (30_encoding.md R120). -/
def decodeTwo (c : CodeSize) (p : Prefixes) (op : Byte) : List Byte → Except DecodeError (Instr × List Byte)
  | [] => .error .truncated
  | mb :: rest =>
    if op = 0x20#8 then .ok (.movFromCr (Reg.ofCode p.rexB (rmOf mb)) (crField p mb), rest)
    else if op = 0x22#8 then .ok (.movToCr (crField p mb) (Reg.ofCode p.rexB (rmOf mb)), rest)
    else if op = 0x78#8 then
      if p.np then (takeRm c p mb rest).map (fun (o, rest) => (.vmread o (regField p mb), rest))
      else .error (.prefixForbidden op)
    else
      if p.np then (takeRm c p mb rest).map (fun (o, rest) => (.vmwrite (regField p mb) o, rest))
      else .error (.prefixForbidden op)

/-- The second opcode byte after `0FH` (30_encoding.md R120). -/
def decode0F (c : CodeSize) (p : Prefixes) : List Byte → Except DecodeError (Instr × List Byte)
  | [] => .error .truncated
  | op :: rest =>
    if op = 0x01#8 then decode0F01 c p rest
    else if op = 0x06#8 then .ok (.clts, rest)
    else if op = 0x30#8 then .ok (.wrmsr, rest)
    else if op = 0x37#8 then if p.np then .ok (.getsec, rest) else .error (.prefixForbidden op)
    else if op = 0xA2#8 then .ok (.cpuid, rest)
    else if op = 0xC7#8 then decode0FC7 c p rest
    else if op = 0x20#8 ∨ op = 0x22#8 ∨ op = 0x78#8 ∨ op = 0x79#8 then decodeTwo c p op rest
    else .error (.unknownOpcode0F op)

/-- The opcode after the prefixes (30_encoding.md R120). -/
def decodeOpcode (c : CodeSize) (p : Prefixes) : List Byte → Except DecodeError (Instr × List Byte)
  | [] => .error .truncated
  | b :: rest =>
    if b = 0x0F#8 then decode0F c p rest
    else if b = 0xF4#8 then .ok (.hlt, rest)
    else if b = 0xFB#8 then .ok (.sti, rest)
    else .error (.unknownOpcode b)

/-- The instruction that the bytes begin with, and the bytes after it (30_encoding.md R118 to R123). -/
def decode (c : CodeSize) (bs : List Byte) : Except DecodeError (Instr × List Byte) :=
  let (p, rest) := prefixes c {} bs
  decodeOpcode c p rest

/-- The bytes begin with RDMSR, `0F 32`, which no row of the table spells (43_base_instructions.md R212; PRESUMED,
log 63): the bytes after it. -/
def decodeRdmsr (c : CodeSize) (bs : List Byte) : Option (List Byte) :=
  match (prefixes c {} bs).2 with
  | b0 :: b1 :: rest => if b0 = 0x0F#8 ∧ b1 = 0x32#8 then some rest else none
  | _ => none

/-- The form belongs to 16-bit addressing (log 13). -/
def AddrForm.is16 : AddrForm → Bool
  | .base _ _ => false
  | .rel _ => false
  | .sib _ _ _ _ => false
  | .sibNoBase _ _ _ => false
  | .base16 _ _ => true
  | .abs16 _ => true

/-! ## The encoder -/

/-- The prefix byte of a segment override; LDTR and TR have none (30_encoding.md R118). -/
def segPrefix : Option Seg → List Byte
  | some .es => [0x26#8]
  | some .cs => [0x2E#8]
  | some .ss => [0x36#8]
  | some .ds => [0x3E#8]
  | some .fs => [0x64#8]
  | some .gs => [0x65#8]
  | _ => []

/-- A REX prefix with these bits, left out when all are 0 (30_encoding.md R118). -/
def rexPrefix (r x b : Bool) : List Byte :=
  if r || x || b then [0x4#4 ++ (BitVec.ofBool false ++ (BitVec.ofBool r ++ (BitVec.ofBool x ++ BitVec.ofBool b)))]
  else []

/-- Four bytes, least significant first. -/
def putD32 (d : BitVec 32) : List Byte :=
  [d.extractLsb' 0 8, d.extractLsb' 8 8, d.extractLsb' 16 8, d.extractLsb' 24 8]

/-- The `mod` that announces a displacement (30_encoding.md R119). -/
def Disp.mod : Disp → BitVec 2
  | .none => 0
  | .d8 _ => 1
  | .d32 _ => 2

/-- The bytes of a displacement. -/
def Disp.bytes : Disp → List Byte
  | .none => []
  | .d8 d => [d]
  | .d32 d => putD32 d

/-- The `mod` that announces a 16-bit form's displacement. -/
def Disp16.mod : Disp16 → BitVec 2
  | .none => 0
  | .d8 _ => 1
  | .d16 _ => 2

/-- Two bytes, least significant first. -/
def putD16 (d : BitVec 16) : List Byte := [d.extractLsb' 0 8, d.extractLsb' 8 8]

/-- The bytes of a 16-bit form's displacement. -/
def Disp16.bytes : Disp16 → List Byte
  | .none => []
  | .d8 d => [d]
  | .d16 d => putD16 d

/-- The code of the base registers of a 16-bit form. -/
def Base16.code : Base16 → BitVec 3
  | .bxSi => 0
  | .bxDi => 1
  | .bpSi => 2
  | .bpDi => 3
  | .si => 4
  | .di => 5
  | .bp => 6
  | .bx => 7

/-- REX.X of an addressing form. -/
def AddrForm.rexX : AddrForm → Bool
  | .base _ _ => false
  | .rel _ => false
  | .sib _ _ i _ => i.hi
  | .sibNoBase _ i _ => i.hi
  | .base16 _ _ => false
  | .abs16 _ => false

/-- REX.B of an addressing form. -/
def AddrForm.rexB : AddrForm → Bool
  | .base b _ => b.hi
  | .rel _ => false
  | .sib b _ _ _ => b.hi
  | .sibNoBase _ _ _ => false
  | .base16 _ _ => false
  | .abs16 _ => false

/-- The ModR/M byte (with `reg` in bits 5:3), SIB byte and displacement of an addressing form. -/
def AddrForm.bytes (reg : BitVec 3) : AddrForm → List Byte
  | .base b d => modrm d.mod reg b.lo :: d.bytes
  | .rel d => modrm 0 reg 5 :: putD32 d
  | .sib b s i d => modrm d.mod reg 4 :: modrm s i.lo b.lo :: d.bytes
  | .sibNoBase s i d => modrm 0 reg 4 :: modrm s i.lo 5 :: putD32 d
  | .base16 b d => modrm d.mod reg b.code :: d.bytes
  | .abs16 d => modrm 0 reg 6 :: putD16 d

/-- The bytes of an instruction with a memory operand: prefixes, mandatory prefix, REX, `0FH`, opcode, operand. -/
def encodeMem (mandatory : List Byte) (op : Byte) (rexR : Bool) (reg : BitVec 3) (m : MemOperand) : List Byte :=
  segPrefix m.seg ++ ((if m.addrPrefix then [0x67#8] else []) ++ (mandatory ++
    (rexPrefix rexR m.form.rexX m.form.rexB ++ (0x0F#8 :: op :: m.form.bytes reg))))

/-- The bytes of an instruction with a register or memory operand. -/
def encodeRm (op : Byte) (rexR : Bool) (reg : BitVec 3) : RmOperand → List Byte
  | .reg r => rexPrefix rexR false r.hi ++ [0x0F#8, op, modrm 3 reg r.lo]
  | .mem m => encodeMem [] op rexR reg m

/-- The bytes of a move between a control register and a general register. -/
def encodeCr (op : Byte) (cr : BitVec 4) (r : Reg) : List Byte :=
  rexPrefix (cr.getLsbD 3) false r.hi ++ [0x0F#8, op, modrm 3 (cr.extractLsb' 0 3) r.lo]

/-- One byte string for each well-formed instruction (30_encoding.md R120). -/
def encode : Instr → List Byte
  | .vmcall => [0x0F#8, 0x01#8, 0xC1#8]
  | .vmlaunch => [0x0F#8, 0x01#8, 0xC2#8]
  | .vmresume => [0x0F#8, 0x01#8, 0xC3#8]
  | .vmxoff => [0x0F#8, 0x01#8, 0xC4#8]
  | .vmptrld m => encodeMem [] 0xC7#8 false 6 m
  | .vmclear m => encodeMem [0x66#8] 0xC7#8 false 6 m
  | .vmxon m => encodeMem [0xF3#8] 0xC7#8 false 6 m
  | .vmptrst m => encodeMem [] 0xC7#8 false 7 m
  | .vmread dst f => encodeRm 0x78#8 f.hi f.lo dst
  | .vmwrite f src => encodeRm 0x79#8 f.hi f.lo src
  | .cpuid => [0x0F#8, 0xA2#8]
  | .wrmsr => [0x0F#8, 0x30#8]
  | .movToCr cr src => encodeCr 0x22#8 cr src
  | .movFromCr dst cr => encodeCr 0x20#8 cr dst
  | .clts => [0x0F#8, 0x06#8]
  | .lmsw src => encodeRm 0x01#8 false 6 src
  | .getsec => [0x0F#8, 0x37#8]
  | .hlt => [0xF4#8]
  | .mwait => [0x0F#8, 0x01#8, 0xC9#8]
  | .sti => [0xFB#8]

/-! ## A row of the opcode table as a number -/

/-- The most bytes an instruction has (30_encoding.md R118). -/
def maxLength : Nat := 15

/-- The `i`th byte of an instruction whose first byte is the least significant. -/
def byteOf (w i : Nat) : Byte := BitVec.ofNat 8 (w / 2 ^ (8 * i))

/-- The bytes of a table row's number, with zeros up to the longest instruction. -/
def tableBytes (nbits w : Nat) : List Byte :=
  (List.range maxLength).map (fun i => if 8 * i < nbits then byteOf w i else 0#8)

/-- The instruction the decoder reads from a table row's number, in 64-bit mode (30_encoding.md R120). -/
def decodeTableWord (nbits w : Nat) : Option Instr :=
  match decode .code64 (tableBytes nbits w) with
  | .ok (i, _) => some i
  | .error _ => none

end Sys2Proof
end

