-- ==== Sys2Proof/Machine/Flags.lean ====
section
/-! DEFINITION. The report of a VMX instruction in RFLAGS as 93_implementation_defined.md G2 gives it (log 9). The places
of the six arithmetic flags (CF 0, PF 2, AF 4, ZF 6, SF 7, OF 11) are PRESUMED. -/

namespace Sys2Proof.Machine

/-- CF, PF, AF, ZF, SF, OF. -/
def arithFlags : Word := 0x8D5#64

/-- Success: all six arithmetic flags 0 (G2). -/
def flagsSucceed (f : Word) : Word := f &&& ~~~arithFlags

/-- Failure with no current VMCS: CF = 1, the other five 0 (G2, "VMfailInvalid"). -/
def flagsFailInvalid (f : Word) : Word := flagsSucceed f ||| 0x1#64

/-- Failure with a current VMCS: ZF = 1, the other five 0 (G2, "VMfailValid"). -/
def flagsFailValid (f : Word) : Word := flagsSucceed f ||| 0x40#64

end Sys2Proof.Machine
end

