-- ==== Sys2Proof/Machine/Bits.lean ====
section
/-! DEFINITION. Bit fields and byte order (00_scope.md R13, R14; 20_memory.md R89). -/

namespace Sys2Proof.Machine

/-- The low `n` bits of a word, zero-extended: `zext` of 00_scope.md R14 after a truncation. -/
def truncTo (n : Nat) (v : Word) : Word := BitVec.ofNat 64 (v.toNat % 2 ^ n)

/-- A word with bit `n` cleared. -/
def clearBit (n : Nat) (v : Word) : Word := v &&& ~~~(1#64 <<< n)

/-- A word with bit `n` set. -/
def setBit (n : Nat) (v : Word) : Word := v ||| (1#64 <<< n)

/-- The low 32 bits, zero-extended. -/
def low32 (v : Word) : Word := (v.setWidth 32).setWidth 64

/-- The value of bytes, least significant first (20_memory.md R89). -/
def leValue : List Byte → Nat
  | [] => 0
  | b :: t => b.toNat + 256 * leValue t

/-- The `n` low bytes of a value, least significant first (20_memory.md R89). -/
def leBytes : Nat → Nat → List Byte
  | 0, _ => []
  | n + 1, v => BitVec.ofNat 8 v :: leBytes n (v / 256)

end Sys2Proof.Machine
end

