-- ==== Sys2Proof/Config.lean ====
section
/-! DEFINITION. What an implementation fixes (00_scope.md R5 to R12 and the open functions of 92_eei_decisions.md), as
plain data that State holds and no step changes (log 1), and the free values, opaque constants with no body. -/

namespace Sys2Proof

/-! ## Names the parameters speak of -/

/-- The activity states of 10_state.md R71. -/
inductive Activity
  | active | hlt | shutdown | waitForSipi
  deriving DecidableEq, Repr

/-- The base operating modes 60_exceptions.md R259 names (log 15). -/
inductive OpMode
  | realAddress | virtual8086 | unpagedProtected | pagedProtected | compatibility | mode64
  deriving DecidableEq, Repr

/-- The exceptions an instruction of this spec raises (60_exceptions.md R230, R231, R236; 40_vmx_enter_leave.md R134
line 10). -/
inductive Exception
  /-- #UD (R230). -/
  | invalidOpcode
  /-- #GP (R231). -/
  | generalProtection
  /-- The base architecture's own fault of an operand or fetch access, which the spec does not name (R134 line 10,
  20_memory.md R96). -/
  | operandAccess
  /-- The unnamed fault of an attempt to use an unusable segment (10_state.md R48, R236). -/
  | unusableSegment
  deriving DecidableEq, Repr

/-- What can cause a VM exit: an instruction of 30_encoding.md R110 or an event (42_vm_entry_exit.md R195). -/
inductive ExitCause
  | vmcall | vmlaunch | vmresume | vmxoff | vmptrld | vmclear | vmxon | vmptrst | vmread | vmwrite
  | cpuid | wrmsr | rdmsr | clts | lmsw | getsec | hlt | mwait | sti
  /-- A move to or from the control register with this number. -/
  | movToCr (n : BitVec 4)
  | movFromCr (n : BitVec 4)
  | init | sipi | tripleFault
  | exception (e : Exception)
  /-- An event the source leaves unnamed (60_exceptions.md R241). -/
  | other (n : Nat)
  /-- A VM entry whose checks fail late (42_vm_entry_exit.md R189, D13). -/
  | entryFailure
  deriving DecidableEq, Repr

/-- The registers with a field in the guest-state area (10_state.md R70), and the non-register state of R71, R73. -/
inductive GuestReg
  | cr0 | cr3 | cr4 | dr7 | rsp | rip | rflags
  | selector (s : Seg) | base (s : Seg) | limit (s : Seg) | access (s : Seg)
  | gdtrBase | gdtrLimit | idtrBase | idtrLimit
  | debugctl | sysenterCs | sysenterEsp | sysenterEip
  | perfGlobalCtrl | pat | efer | smbase
  | activity | interruptibility
  deriving DecidableEq, Repr

/-- The fields of VMCS data this spec names (10_state.md R64, R70, R71, R73, R74). The fields of the host-state area
are those of 93_implementation_defined.md G11 and others a processor may have (`HOST_FIELDS`, 42_vm_entry_exit.md
R198). Beside them stand, of the family (PRESUMED), the guest/host masks and read shadows of CR0 and CR4, VM-execution
control fields on which exits of MOV CR, CLTS and LMSW depend (R195; log 17), and the VM-exit information fields (R199,
log 19; G2, log 10). -/
inductive Field
  | guest (r : GuestReg)
  | linkPointer
  | host (r : GuestReg)
  | primaryProcCtls
  | secondaryProcCtls
  | entryCtls
  | exitCtls
  | cr0Mask
  | cr4Mask
  | cr0Shadow
  | cr4Shadow
  | exitReason
  | exitQualification
  | interruptionInfo
  | vmInstructionError
  deriving DecidableEq, Repr

/-- What a VMREAD or VMWRITE operand value names: a field, whole or (where W = 32) the high half of a 64-bit field
(41_vmcs_maintenance.md R165). -/
structure FieldAccess where
  field : Field
  high : Bool
  deriving DecidableEq, Repr

/-- What an instruction operates on, as far as a VM exit may depend on it (42_vm_entry_exit.md R195, R199); for
`Translate`, the linear address at hand (20_memory.md R96). -/
inductive OperandName
  /-- The value of the source operand. -/
  | source
  /-- The value of the field-encoding register of VMREAD and VMWRITE. -/
  | field
  /-- The number of the general register that is source or destination. -/
  | register
  /-- The linear address of the memory operand, or the one that `Translate` is asked about. -/
  | address
  deriving DecidableEq, Repr

/-- State of the logical processor beside that of `GuestReg` and the general registers (10_state.md R20, R29, R34, R35,
R60, R65, R66, R72, R79). -/
inductive SysReg
  | cr2 | cr8 | featureControl | smxOp | a20m | mwaitIdle | vmxonPtr | nextRip
  /-- The VMX mode: 0 outside VMX operation, 1 in VMX root operation, 2 in VMX non-root operation. -/
  | vmxMode
  /-- The launch state of the current VMCS: 0 undefined, 1 clear, 2 launched; no value without a current VMCS. -/
  | launchState
  /-- The current-VMCS pointer; no value without a current VMCS. -/
  | currentVmcs
  | otherMsr (a : BitVec 32)
  deriving DecidableEq, Repr

/-- The operations of a `StateTerm`, on 64 bits; a comparison gives 1 or 0. -/
inductive TermOp
  | and | or | xor | add | shl | shr | ltu | eq
  deriving DecidableEq, Repr

/-- A value computed from the current VMCS, the state of the logical processor, memory and the operands: a parameter
that is a function of them is a list of such terms (log 14, log 17, log 19). -/
inductive StateTerm
  | const (x : Word)
  | field (f : Field)
  | reg (g : GuestReg)
  | gpr (r : Reg)
  | sys (x : SysReg)
  | operand (o : OperandName)
  /-- The byte of memory at a physical address, as in a bitmap that a field points to, or in a page table. -/
  | byte (a : StateTerm)
  /-- 1 where the VMCS with this pointer is active, else 0. -/
  | isActive (p : StateTerm)
  | op (o : TermOp) (a b : StateTerm)
  /-- The first term, or the second where the first has no value. -/
  | orElse (a b : StateTerm)
  deriving DecidableEq, Repr

/-- A condition: the values of two terms are equal (`eq`), or are not. It does not hold where one has no value. -/
structure TermCond where
  lhs : StateTerm
  rhs : StateTerm
  eq : Bool
  deriving DecidableEq, Repr

/-- A condition on a field of the current VMCS: its bits under `mask` are `value` (`eq`), or are not. -/
structure CtlCond where
  field : Field
  mask : Word
  value : Word
  eq : Bool
  deriving DecidableEq, Repr

/-- One line of a predicate over the cause of a VM exit, the controls and the state, such as `EXITING`: it holds of this
cause where all the conditions hold (42_vm_entry_exit.md R195, D5; log 17). Several lines for one cause are
alternatives. -/
structure ExitRule where
  cause : ExitCause
  conds : List TermCond
  deriving DecidableEq, Repr

/-- A register that VM entries load, or VM exits save or load, only where all the conditions hold
(42_vm_entry_exit.md R190, R196; log 20, log 23). -/
structure TransferRule where
  reg : GuestReg
  conds : List CtlCond
  deriving DecidableEq, Repr

/-- What a VM exit records, as functions of the state (42_vm_entry_exit.md R196 line 2, R199; log 19). -/
structure ExitRecord where
  reason : StateTerm
  qualification : StateTerm
  interruption : StateTerm
  deriving DecidableEq, Repr

/-- The kind of "VMXON fails" (40_vmx_enter_leave.md R135). -/
inductive VmxonFailKind
  | gp | vmfail
  deriving DecidableEq, Repr

/-- Memory types 20_memory.md R92 names. -/
inductive MemType
  | writeback | uncacheable
  deriving DecidableEq, Repr

/-- The kinds of access that `Translate` tells apart (20_memory.md R96). -/
inductive Access
  | read | write | execute
  deriving DecidableEq, Repr

/-- One answer of `Translate` (20_memory.md R96), a function of the logical processor, the linear address and the access:
where the conditions hold (on the address, the registers, the VMX mode, A20M mode, the current VMCS, bytes of memory),
an access of this kind goes to the 4-KByte frame with this number, or faults where none is given or the term has no
value. A term may read page tables in memory (log 14). -/
structure TransEntry where
  conds : List TermCond
  access : Access
  frame : Option StateTerm
  deriving DecidableEq, Repr

/-- What stands at physical addresses of the platform where it is not plain memory (20_memory.md R94, D14; log 62). -/
inductive MemKind
  /-- Memory that a store leaves as it is. -/
  | readOnly
  /-- A device: what an access does there is the platform's. -/
  | device
  /-- Nothing: no such physical address. -/
  | absent
  deriving DecidableEq, Repr

/-- A range of the platform's memory map, both ends included. -/
structure MemRange where
  first : Nat
  last : Nat
  kind : MemKind
  deriving DecidableEq, Repr

/-- An answer of `ENTRY_CHECK` (42_vm_entry_exit.md R189). -/
inductive EntryVerdict
  | pass | failEarly | failLate
  deriving DecidableEq, Repr

/-! ## The parameters -/

/-- The constants of one processor (10_state.md R37, R38; 00_scope.md R5 to R12). -/
structure Config where
  /-- `P_VMX` (R5). -/
  vmx : Bool
  /-- `P_SMX` (R6). -/
  smx : Bool
  /-- `P_INTEL64` (R7). -/
  intel64 : Bool
  /-- `P_PAWIDTH` (R8), at most 64 (`ConfigLegal`). -/
  paWidth : Nat
  /-- The MSR IA32_VMX_BASIC (R37): bit 48 is `P_BASIC48` (R8); bits 30:0 and 44:32 hold the revision identifier and
  the region size, above 8 and at most 4096 (R9, 93_implementation_defined.md G5; `ConfigLegal`). -/
  vmxBasic : Word
  /-- The MSR IA32_VMX_MISC (R37); its layout is not in the source, so what it reports stands below. -/
  vmxMisc : Word
  /-- The MSR IA32_VMX_PROCBASED_CTLS2 (R37); its layout is not in the source. -/
  vmxProcbasedCtls2 : Word
  /-- The addresses of the MSRs the processor has beside those of this spec (10_state.md R79; log 34). -/
  otherMsrs : List (BitVec 32)
  /-- The MSRs that say how bits of CR0 and CR4 are fixed (R37, R11, G4). -/
  cr0Fixed0 : Word
  cr0Fixed1 : Word
  cr4Fixed0 : Word
  cr4Fixed1 : Word
  /-- `P_VMXON_SIZE` (R9, U12). -/
  vmxonSize : Nat
  /-- `P_VMCS_MEMTYPE` (R12, 20_memory.md R92): no effect in a model without caches (U10; log 50). -/
  vmcsMemType : MemType
  /-- `P_SHADOW_VMCS`, `P_UNRESTRICTED_GUEST` (R10). -/
  shadowVmcs : Bool
  unrestrictedGuest : Bool
  /-- `P_ACTIVITY_STATES` (R12); the active state is always among them. -/
  activityStates : List Activity
  /-- `P_EXITINFO_WRITABLE` (R12). -/
  exitInfoWritable : Bool
  /-- `P_HAS_PERF_GLOBAL_CTRL`, `P_HAS_PAT`, `P_HAS_EFER` (R12, 10_state.md R55). -/
  hasPerfGlobalCtrl : Bool
  hasPat : Bool
  hasEfer : Bool
  /-- `P_WARM_RESET_CLEARS_FC` (70_reset_and_hazards.md R271). -/
  warmResetClearsFc : Bool
  /-- `VMXON_FAIL_KIND` (40_vmx_enter_leave.md R135). -/
  vmxonFailKind : VmxonFailKind
  /-- `VMXON_REGION_OK`: whether VMXON checks the revision identifier of its region (R137, G8). -/
  vmxonRegionCheck : Bool
  /-- `MODE_OK`: the operating modes in which VMX instructions execute (R134, D20; log 15). -/
  vmxModes : List OpMode
  /-- `EXITING` beside VMCALL and INIT, which always exit (42_vm_entry_exit.md R195; log 17). -/
  exiting : List ExitRule
  /-- `EXIT_RIP`: the instructions, and the states, for which the next instruction's address is saved (R197; log 18). -/
  exitRipNext : List ExitRule
  /-- `EXIT_INFO`: what the VM-exit information fields receive for each cause (R199; log 19). -/
  exitInfo : List (ExitCause × ExitRecord)
  /-- `ENTRY_LOADS`: what limits the guest-state fields a VM entry loads, such as "load debug controls" (R190, G9;
  log 23). -/
  entryRules : List TransferRule
  /-- What limits the guest-state fields a VM exit saves, such as "save debug controls" (R197, G9; log 23). -/
  exitRules : List TransferRule
  /-- `HOST_FIELDS` beside CR0, CR3, CR4, RIP and the selector of CS, which are always host-state fields (R198,
  20_memory.md R105; log 20). -/
  hostFields : List GuestReg
  /-- What limits the host-state fields a VM exit loads, other than those five, such as "load IA32_PAT" among the VM-exit
  controls (R196; log 20). -/
  hostRules : List TransferRule
  /-- What a VM exit gives the base, the limit and the access rights of CS where it loads no host-state field, so that
  the VMM's code runs in its own context (20_memory.md R105; log 20): the access rights by the first line whose
  conditions hold. -/
  hostCsBase : Word
  hostCsLimit : BitVec 32
  hostCsAccess : List (List CtlCond × BitVec 32)
  /-- `FIELD_ENCODING` (30_encoding.md R115; log 53). -/
  fieldEncoding : List (BitVec 32 × FieldAccess)
  /-- The places of the named controls in their 32-bit fields (10_state.md R28, R55, R61; N12; log 23). -/
  unrestrictedGuestBit : Nat
  vmcsShadowingBit : Nat
  loadPerfGlobalCtrlBit : Nat
  loadPatBit : Nat
  loadEferBit : Nat
  savePatBit : Nat
  saveEferBit : Nat
  /-- Whether the operands of VMREAD and VMWRITE have 64 bits in 64-bit mode and 32 elsewhere (30_encoding.md R123, G1),
  or W bits in every mode (41_vmcs_maintenance.md R163, 30_encoding.md R115; log 52). -/
  operandByMode : Bool
  /-- Whether MWAIT makes the processor inactive (U19). -/
  mwaitIdles : Bool
  /-- Whether a VMX instruction reports success and failure in RFLAGS and in the VM-instruction error field (G2;
  log 9). -/
  reportInRflags : Bool
  /-- Whether a VM exit saves zero in the bits beyond a register's width (G12, U9; log 54). -/
  upperBitsZero : Bool
  /-- `Translate` (20_memory.md R96), identity where nothing is listed (log 14). -/
  translation : List TransEntry
  /-- The platform's memory map (20_memory.md R94, D14): what is not plain memory (log 62). -/
  memMap : List MemRange
  deriving DecidableEq, Repr

/-! ## Free values

Nothing constrains them: a claim that holds, holds whatever they are. The first argument is the counter `State.draws`
or, for a field, the epoch of its VMCS. -/

/-- A byte loaded from a region the processor owns (20_memory.md R91, R99; 40_vmx_enter_leave.md R137; log 25). -/
opaque Config.freeByte : Nat → Nat → Byte

/-- A byte of the image that VMCLEAR or a reset leaves in a VMCS region (20_memory.md R100, R272; log 26). -/
opaque Config.imageByte : Nat → Nat → Byte

/-- The value of a field of VMCS data that nothing has written (10_state.md R65, U3; log 24), by region and epoch. -/
opaque Config.undefinedField : Word → Nat → Field → Word

/-- The bits that a VM exit saves beyond a register's width (U9; log 54). -/
opaque Config.upperBits : Nat → GuestReg → Word

/-- The VM-instruction error number of a failure (G2 gives no numbers; log 10). -/
opaque Config.vmInstructionError : Nat → BitVec 32

/-- EAX, EBX, ECX, EDX of CPUID as far as 43_base_instructions.md R210, R211 leave them open (log 35). -/
opaque Config.cpuidOutput : Nat → Reg → BitVec 32

/-- Where a SIPI starts the logical processor: RIP and CS (60_exceptions.md R244; log 45). -/
opaque Config.sipiRip : Nat → Word
opaque Config.sipiCsSelector : Nat → BitVec 16
opaque Config.sipiCsBase : Nat → BitVec 32

end Sys2Proof
end

