-- ==== Sys2Proof/Machine/Fields.lean ====
section
/-! DEFINITION. The fields of VMCS data: their number, width and group (10_state.md R64, R70, R71, R73, R74). -/

namespace Sys2Proof.Machine

/-- The natural width `W` in bits (00_scope.md R7, D24). -/
def natWidth (cfg : Config) : Nat := if cfg.intel64 then 64 else 32

/-- A place for each segment register. -/
def segIdx : Seg → Nat
  | .cs => 0
  | .ss => 1
  | .ds => 2
  | .es => 3
  | .fs => 4
  | .gs => 5
  | .ldtr => 6
  | .tr => 7

/-- A place for each register of the guest-state area. -/
def guestIdx : GuestReg → Nat
  | .cr0 => 0
  | .cr3 => 1
  | .cr4 => 2
  | .dr7 => 3
  | .rsp => 4
  | .rip => 5
  | .rflags => 6
  | .selector s => 7 + segIdx s
  | .base s => 15 + segIdx s
  | .limit s => 23 + segIdx s
  | .access s => 31 + segIdx s
  | .gdtrBase => 39
  | .gdtrLimit => 40
  | .idtrBase => 41
  | .idtrLimit => 42
  | .debugctl => 43
  | .sysenterCs => 44
  | .sysenterEsp => 45
  | .sysenterEip => 46
  | .perfGlobalCtrl => 47
  | .pat => 48
  | .efer => 49
  | .smbase => 50
  | .activity => 51
  | .interruptibility => 52

/-- The key under which a VMCS's data lists a field: no two fields share one. -/
def fieldIdx : Field → Nat
  | .guest r => guestIdx r
  | .host r => 53 + guestIdx r
  | .linkPointer => 106
  | .primaryProcCtls => 107
  | .secondaryProcCtls => 108
  | .entryCtls => 109
  | .exitCtls => 110
  | .exitReason => 111
  | .vmInstructionError => 112
  | .cr0Mask => 113
  | .cr4Mask => 114
  | .cr0Shadow => 115
  | .cr4Shadow => 116
  | .exitQualification => 117
  | .interruptionInfo => 118

/-- The segment registers of 10_state.md R43. -/
def allSegs : List Seg := [.cs, .ss, .ds, .es, .fs, .gs, .ldtr, .tr]

/-- The registers of the guest-state area, as 10_state.md R70, R71 and R73 list them. -/
def allGuestRegs : List GuestReg :=
  [.cr0, .cr3, .cr4, .dr7, .rsp, .rip, .rflags]
    ++ allSegs.map .selector ++ allSegs.map .base ++ allSegs.map .limit ++ allSegs.map .access
    ++ [.gdtrBase, .gdtrLimit, .idtrBase, .idtrLimit, .debugctl, .sysenterCs, .sysenterEsp, .sysenterEip,
        .perfGlobalCtrl, .pat, .efer, .smbase, .activity, .interruptibility]

/-- The width in bits of a register's field (10_state.md R70, R71, R73). -/
def guestWidth (cfg : Config) : GuestReg → Nat
  | .cr0 => natWidth cfg
  | .cr3 => natWidth cfg
  | .cr4 => natWidth cfg
  | .dr7 => natWidth cfg
  | .rsp => natWidth cfg
  | .rip => natWidth cfg
  | .rflags => natWidth cfg
  | .selector _ => 16
  | .base _ => natWidth cfg
  | .limit _ => 32
  | .access _ => 32
  | .gdtrBase => natWidth cfg
  | .gdtrLimit => 32
  | .idtrBase => natWidth cfg
  | .idtrLimit => 32
  | .debugctl => 64
  | .sysenterCs => 32
  | .sysenterEsp => natWidth cfg
  | .sysenterEip => natWidth cfg
  | .perfGlobalCtrl => 64
  | .pat => 64
  | .efer => 64
  | .smbase => 32
  | .activity => 32
  | .interruptibility => 32

/-- The width in bits of a field (10_state.md R64, R70, R74; R28 for the 32-bit controls; those of the family's fields
PRESUMED, log 10, log 17, log 19). -/
def fieldWidth (cfg : Config) : Field → Nat
  | .guest r => guestWidth cfg r
  | .host r => guestWidth cfg r
  | .linkPointer => 64
  | .primaryProcCtls => 32
  | .secondaryProcCtls => 32
  | .entryCtls => 32
  | .exitCtls => 32
  | .cr0Mask => natWidth cfg
  | .cr4Mask => natWidth cfg
  | .cr0Shadow => natWidth cfg
  | .cr4Shadow => natWidth cfg
  | .exitReason => 32
  | .exitQualification => natWidth cfg
  | .interruptionInfo => 32
  | .vmInstructionError => 32

/-- The VM-exit information fields (10_state.md R64). That the VM-instruction error field of G2 is one of them is the
model's choice (PRESUMED, log 10): neither G2 nor R64 gives its group. -/
def isExitInfo : Field → Bool
  | .exitReason => true
  | .exitQualification => true
  | .interruptionInfo => true
  | .vmInstructionError => true
  | _ => false

/-- Every VM entry loads CR0, CR4, RIP (42_vm_entry_exit.md R190, R191) and, with RIP, CR3 and CS (20_memory.md R105;
log 23). -/
def alwaysLoaded : GuestReg → Bool
  | .cr0 => true
  | .cr3 => true
  | .cr4 => true
  | .rip => true
  | .selector .cs => true
  | .base .cs => true
  | .limit .cs => true
  | .access .cs => true
  | _ => false

/-- On every processor CR0, CR4 and RIP (42_vm_entry_exit.md R196, R198) and, with RIP, CR3 and the selector of CS
(20_memory.md R105; log 20) are host-state fields. -/
def alwaysHost : GuestReg → Bool
  | .cr0 => true
  | .cr3 => true
  | .cr4 => true
  | .rip => true
  | .selector .cs => true
  | _ => false

/-- A host-state field of this processor (`HOST_FIELDS`, 42_vm_entry_exit.md R198), also of the three MSRs whose
guest-state fields are optional: `P_HAS_PERF_GLOBAL_CTRL`, `P_HAS_PAT` and `P_HAS_EFER` speak of the guest-state fields
(00_scope.md R12, 10_state.md R55) and decide nothing here (DESIGN CHOICE, log 20). The activity and interruptibility
states have none: after a VM exit the VMM runs (log 20). -/
def isHostField (cfg : Config) : GuestReg → Bool
  | .activity => false
  | .interruptibility => false
  | r => alwaysHost r || decide (r ∈ cfg.hostFields)

/-- The processor has this guest-state field (10_state.md R55). -/
def hasGuestField (cfg : Config) : GuestReg → Bool
  | .perfGlobalCtrl => cfg.hasPerfGlobalCtrl
  | .pat => cfg.hasPat
  | .efer => cfg.hasEfer
  | _ => true

/-- The processor has this field (10_state.md R55, 42_vm_entry_exit.md R198; 41_vmcs_maintenance.md R163 line 5). -/
def hasField (cfg : Config) : Field → Bool
  | .guest r => hasGuestField cfg r
  | .host r => isHostField cfg r
  | _ => true

/-- The activity state a field value stands for (10_state.md R71). -/
def activityOf (v : Word) : Option Activity :=
  match v.toNat with
  | 0 => some .active
  | 1 => some .hlt
  | 2 => some .shutdown
  | 3 => some .waitForSipi
  | _ => none

/-- The field value of an activity state (10_state.md R71). -/
def activityCode : Activity → Word
  | .active => 0
  | .hlt => 1
  | .shutdown => 2
  | .waitForSipi => 3

/-- The vector number of an exception (D21): none where the spec gives none. -/
def exceptionVector : Exception → Option Nat
  | .invalidOpcode => some 6
  | .generalProtection => some 13
  | .operandAccess => none
  | .unusableSegment => none

/-- The error code of an exception (D21): none where there is none or the spec gives none. -/
def exceptionErrorCode : Exception → Option Nat
  | .invalidOpcode => none
  | .generalProtection => some 0
  | .operandAccess => none
  | .unusableSegment => none

/-- What `FIELD_ENCODING` says of an operand value (30_encoding.md R115): 32 bits select, so a value with a bit above
them names no field. -/
def lookupEncoding (x : Word) : List (BitVec 32 × FieldAccess) → Option FieldAccess
  | [] => none
  | (c, f) :: t => if c.setWidth 64 = x then some f else lookupEncoding x t

/-- What `EXIT_INFO` records for a cause (42_vm_entry_exit.md R199). -/
def lookupExitInfo (c : ExitCause) : List (ExitCause × ExitRecord) → Option ExitRecord
  | [] => none
  | (d, r) :: t => if d = c then some r else lookupExitInfo c t

/-- The cause is an instruction, so that a next instruction is known when it exits (42_vm_entry_exit.md R195). -/
def isInstrCause : ExitCause → Bool
  | .init => false
  | .sipi => false
  | .tripleFault => false
  | .exception _ => false
  | .other _ => false
  | .entryFailure => false
  | _ => true

/-- The access rights of a descriptor whose upper 32 bits are `d` (10_state.md R47): bits 23:8 of `d`, with bits 11:8
reserved (zero, U4). No instruction of this spec loads a descriptor. -/
def descriptorAccess (d : BitVec 32) : BitVec 32 := (d >>> 8) &&& 0xF0FF#32

/-- The limit of a segment in bytes, from a descriptor's 20-bit limit and its G bit (10_state.md R46; the scaling is
general knowledge, 95_test_vectors.md V10.8). -/
def descriptorLimit (limit : BitVec 20) (g : Bool) : BitVec 32 := if g then limit ++ 0xFFF#12 else limit.setWidth 32

end Sys2Proof.Machine
end

