-- ==== Sys2Proof/Machine/ResetValues.lean ====
section
/-! DEFINITION. The processor of State.reset: parameter set PS1 of 95_test_vectors.md with the general-knowledge
defaults of 93_implementation_defined.md part 2 (log 1), and the family's reset values (log 2). -/

namespace Sys2Proof.Machine

/-- The family's field encodings (PRESUMED: 91_not_in_source.md N11 gives none; log 53). A 64-bit field has a second
encoding, one higher, for its high half. -/
def familyFieldEncoding : List (BitVec 32 × FieldAccess) :=
  [ (0x0800#32, ⟨.guest (.selector .es), false⟩), (0x0802#32, ⟨.guest (.selector .cs), false⟩),
    (0x0804#32, ⟨.guest (.selector .ss), false⟩), (0x0806#32, ⟨.guest (.selector .ds), false⟩),
    (0x0808#32, ⟨.guest (.selector .fs), false⟩), (0x080A#32, ⟨.guest (.selector .gs), false⟩),
    (0x080C#32, ⟨.guest (.selector .ldtr), false⟩), (0x080E#32, ⟨.guest (.selector .tr), false⟩) ] ++
  [ (0x0C00#32, ⟨.host (.selector .es), false⟩), (0x0C02#32, ⟨.host (.selector .cs), false⟩),
    (0x0C04#32, ⟨.host (.selector .ss), false⟩), (0x0C06#32, ⟨.host (.selector .ds), false⟩),
    (0x0C08#32, ⟨.host (.selector .fs), false⟩), (0x0C0A#32, ⟨.host (.selector .gs), false⟩),
    (0x0C0C#32, ⟨.host (.selector .tr), false⟩) ] ++
  [ (0x2800#32, ⟨.linkPointer, false⟩), (0x2801#32, ⟨.linkPointer, true⟩),
    (0x2802#32, ⟨.guest .debugctl, false⟩), (0x2803#32, ⟨.guest .debugctl, true⟩),
    (0x2804#32, ⟨.guest .pat, false⟩), (0x2805#32, ⟨.guest .pat, true⟩),
    (0x2806#32, ⟨.guest .efer, false⟩), (0x2807#32, ⟨.guest .efer, true⟩),
    (0x2808#32, ⟨.guest .perfGlobalCtrl, false⟩), (0x2809#32, ⟨.guest .perfGlobalCtrl, true⟩) ] ++
  [ (0x2C00#32, ⟨.host .pat, false⟩), (0x2C01#32, ⟨.host .pat, true⟩),
    (0x2C02#32, ⟨.host .efer, false⟩), (0x2C03#32, ⟨.host .efer, true⟩),
    (0x2C04#32, ⟨.host .perfGlobalCtrl, false⟩), (0x2C05#32, ⟨.host .perfGlobalCtrl, true⟩) ] ++
  [ (0x4002#32, ⟨.primaryProcCtls, false⟩), (0x400C#32, ⟨.exitCtls, false⟩), (0x4012#32, ⟨.entryCtls, false⟩),
    (0x401E#32, ⟨.secondaryProcCtls, false⟩), (0x4400#32, ⟨.vmInstructionError, false⟩),
    (0x4402#32, ⟨.exitReason, false⟩), (0x4404#32, ⟨.interruptionInfo, false⟩) ] ++
  [ (0x6000#32, ⟨.cr0Mask, false⟩), (0x6002#32, ⟨.cr4Mask, false⟩), (0x6004#32, ⟨.cr0Shadow, false⟩),
    (0x6006#32, ⟨.cr4Shadow, false⟩), (0x6400#32, ⟨.exitQualification, false⟩) ] ++
  [ (0x4800#32, ⟨.guest (.limit .es), false⟩), (0x4802#32, ⟨.guest (.limit .cs), false⟩),
    (0x4804#32, ⟨.guest (.limit .ss), false⟩), (0x4806#32, ⟨.guest (.limit .ds), false⟩),
    (0x4808#32, ⟨.guest (.limit .fs), false⟩), (0x480A#32, ⟨.guest (.limit .gs), false⟩),
    (0x480C#32, ⟨.guest (.limit .ldtr), false⟩), (0x480E#32, ⟨.guest (.limit .tr), false⟩),
    (0x4810#32, ⟨.guest .gdtrLimit, false⟩), (0x4812#32, ⟨.guest .idtrLimit, false⟩) ] ++
  [ (0x4814#32, ⟨.guest (.access .es), false⟩), (0x4816#32, ⟨.guest (.access .cs), false⟩),
    (0x4818#32, ⟨.guest (.access .ss), false⟩), (0x481A#32, ⟨.guest (.access .ds), false⟩),
    (0x481C#32, ⟨.guest (.access .fs), false⟩), (0x481E#32, ⟨.guest (.access .gs), false⟩),
    (0x4820#32, ⟨.guest (.access .ldtr), false⟩), (0x4822#32, ⟨.guest (.access .tr), false⟩),
    (0x4824#32, ⟨.guest .interruptibility, false⟩), (0x4826#32, ⟨.guest .activity, false⟩),
    (0x4828#32, ⟨.guest .smbase, false⟩), (0x482A#32, ⟨.guest .sysenterCs, false⟩),
    (0x4C00#32, ⟨.host .sysenterCs, false⟩) ] ++
  [ (0x6800#32, ⟨.guest .cr0, false⟩), (0x6802#32, ⟨.guest .cr3, false⟩), (0x6804#32, ⟨.guest .cr4, false⟩),
    (0x6806#32, ⟨.guest (.base .es), false⟩), (0x6808#32, ⟨.guest (.base .cs), false⟩),
    (0x680A#32, ⟨.guest (.base .ss), false⟩), (0x680C#32, ⟨.guest (.base .ds), false⟩),
    (0x680E#32, ⟨.guest (.base .fs), false⟩), (0x6810#32, ⟨.guest (.base .gs), false⟩),
    (0x6812#32, ⟨.guest (.base .ldtr), false⟩), (0x6814#32, ⟨.guest (.base .tr), false⟩),
    (0x6816#32, ⟨.guest .gdtrBase, false⟩), (0x6818#32, ⟨.guest .idtrBase, false⟩),
    (0x681A#32, ⟨.guest .dr7, false⟩), (0x681C#32, ⟨.guest .rsp, false⟩), (0x681E#32, ⟨.guest .rip, false⟩),
    (0x6820#32, ⟨.guest .rflags, false⟩), (0x6824#32, ⟨.guest .sysenterEsp, false⟩),
    (0x6826#32, ⟨.guest .sysenterEip, false⟩) ] ++
  [ (0x6C00#32, ⟨.host .cr0, false⟩), (0x6C02#32, ⟨.host .cr3, false⟩), (0x6C04#32, ⟨.host .cr4, false⟩),
    (0x6C06#32, ⟨.host (.base .fs), false⟩), (0x6C08#32, ⟨.host (.base .gs), false⟩),
    (0x6C0A#32, ⟨.host (.base .tr), false⟩), (0x6C0C#32, ⟨.host .gdtrBase, false⟩),
    (0x6C0E#32, ⟨.host .idtrBase, false⟩), (0x6C10#32, ⟨.host .sysenterEsp, false⟩),
    (0x6C12#32, ⟨.host .sysenterEip, false⟩), (0x6C14#32, ⟨.host .rsp, false⟩), (0x6C16#32, ⟨.host .rip, false⟩) ]

/-- A bit of a control field is 1, or is 0. -/
def ctlBitIs (f : Field) (n : Nat) (b : Bool) : TermCond :=
  ⟨.op .and (.field f) (.const (1#64 <<< n)), .const (1#64 <<< n), b⟩

/-- The source operand differs from the read shadow in a bit of the guest/host mask, among the bits `among`. -/
def maskedChange (mask shadow : Field) (among : Word) : TermCond :=
  ⟨.op .and (.op .and (.op .xor (.operand .source) (.field shadow)) (.field mask)) (.const among), .const 0, false⟩

/-- The default `EXITING` of 93_implementation_defined.md G10: every VMX instruction, CPUID and GETSEC always; HLT, MWAIT,
WRMSR (and RDMSR, log 63), the moves of CR3 and CR8 by bits of the primary controls, the moves to CR0 and CR4, CLTS and
LMSW by the guest/host masks and read shadows: where the source operand would change a masked bit (LMSW cannot clear
PE). The places and the fields are PRESUMED (log 17). -/
def familyExiting : List ExitRule :=
  [.vmlaunch, .vmresume, .vmxoff, .vmptrld, .vmclear, .vmxon, .vmptrst, .vmread, .vmwrite, .cpuid, .getsec].map
      (fun c => ⟨c, []⟩) ++
  [⟨.hlt, [ctlBitIs .primaryProcCtls 7 true]⟩, ⟨.mwait, [ctlBitIs .primaryProcCtls 10 true]⟩,
    ⟨.wrmsr, [ctlBitIs .primaryProcCtls 28 false]⟩, ⟨.rdmsr, [ctlBitIs .primaryProcCtls 28 false]⟩,
    ⟨.movToCr 3, [ctlBitIs .primaryProcCtls 15 true]⟩, ⟨.movFromCr 3, [ctlBitIs .primaryProcCtls 16 true]⟩,
    ⟨.movToCr 8, [ctlBitIs .primaryProcCtls 19 true]⟩, ⟨.movFromCr 8, [ctlBitIs .primaryProcCtls 20 true]⟩] ++
  [⟨.movToCr 0, [maskedChange .cr0Mask .cr0Shadow 0xFFFFFFFFFFFFFFFF#64]⟩,
    ⟨.movToCr 4, [maskedChange .cr4Mask .cr4Shadow 0xFFFFFFFFFFFFFFFF#64]⟩,
    ⟨.clts, [ctlBitIs .cr0Mask 3 true, ctlBitIs .cr0Shadow 3 true]⟩,
    ⟨.lmsw, [maskedChange .cr0Mask .cr0Shadow 0xE#64]⟩,
    ⟨.lmsw, [maskedChange .cr0Mask .cr0Shadow 0x1#64, ctlBitIs .cr0Shadow 0 false]⟩]

/-- A cause that its reason alone tells. -/
def plainRecord (reason : Word) : ExitRecord := ⟨.const reason, .const 0, .const 0⟩

/-- An access to a control register: the control register's number and the kind of access stand in bits 5:0 of the
qualification, the general register's number in bits 11:8. -/
def crRecord (access : Word) : ExitRecord :=
  ⟨.const 28, .op .or (.const access) (.orElse (.op .shl (.operand .register) (.const 8)) (.const 0)), .const 0⟩

/-- LMSW: the kind of access, bit 6 for a memory operand, and the source in bits 31:16 of the qualification. -/
def lmswRecord : ExitRecord :=
  ⟨.const 28,
    .op .or (.const 0x30)
      (.op .or (.orElse (.op .shl (.op .eq (.operand .address) (.operand .address)) (.const 6)) (.const 0))
        (.orElse (.op .shl (.operand .source) (.const 16)) (.const 0))),
    .const 0⟩

/-- An exception: its vector stands in the interruption information. -/
def exceptionRecord (info : Word) : ExitRecord := ⟨.const 0, .const 0, .const info⟩

/-- The family's exit reasons and what tells the causes with one reason apart (PRESUMED; 42_vm_entry_exit.md R199 asks
for fields that distinguish the causes; log 19). -/
def familyExitInfo : List (ExitCause × ExitRecord) :=
  [ (.tripleFault, plainRecord 2), (.init, plainRecord 3), (.sipi, plainRecord 4), (.cpuid, plainRecord 10),
    (.getsec, plainRecord 11), (.hlt, plainRecord 12), (.vmcall, plainRecord 18), (.vmclear, plainRecord 19),
    (.vmlaunch, plainRecord 20), (.vmptrld, plainRecord 21), (.vmptrst, plainRecord 22), (.vmread, plainRecord 23),
    (.vmresume, plainRecord 24), (.vmwrite, plainRecord 25), (.vmxoff, plainRecord 26), (.vmxon, plainRecord 27),
    (.rdmsr, plainRecord 31), (.wrmsr, plainRecord 32), (.mwait, plainRecord 36),
    (.entryFailure, plainRecord 0x80000021) ] ++
  [ (.movToCr 0, crRecord 0x00), (.movToCr 2, crRecord 0x02), (.movToCr 3, crRecord 0x03),
    (.movToCr 4, crRecord 0x04), (.movToCr 8, crRecord 0x08), (.movFromCr 0, crRecord 0x10),
    (.movFromCr 2, crRecord 0x12), (.movFromCr 3, crRecord 0x13), (.movFromCr 4, crRecord 0x14),
    (.movFromCr 8, crRecord 0x18), (.clts, crRecord 0x20), (.lmsw, lmswRecord) ] ++
  [ (.exception .invalidOpcode, exceptionRecord 0x80000306), (.exception .generalProtection, exceptionRecord 0x80000B0D),
    (.exception .operandAccess, exceptionRecord 0x80000B0E), (.exception .unusableSegment, exceptionRecord 0x80000B0C) ]

/-- The host-state area of 93_implementation_defined.md G11, less the three optional MSRs (log 20). -/
def familyHostFields : List GuestReg :=
  [ .cr0, .cr3, .cr4, .rsp, .rip, .selector .cs, .selector .ss, .selector .ds, .selector .es, .selector .fs,
    .selector .gs, .selector .tr, .base .fs, .base .gs, .base .tr, .gdtrBase, .idtrBase, .sysenterCs, .sysenterEsp,
    .sysenterEip ]

/-- The processor of State.reset (DESIGN CHOICE, log 1). IA32_VMX_BASIC: revision identifier 12H, regions of 4096
bytes, memory type writeback, bit 48 clear. -/
def familyConfig : Config where
  vmx := true
  smx := false
  intel64 := true
  paWidth := 36
  vmxBasic := 0x0018100000000012#64
  vmxMisc := 0x1C0#64
  vmxProcbasedCtls2 := 0#64
  otherMsrs := []
  cr0Fixed0 := 0x80000021#64
  cr0Fixed1 := 0xFFFFFFFFFFFFFFFF#64
  cr4Fixed0 := 0x2000#64
  cr4Fixed1 := 0xFFFFFFFFFFFFFFFF#64
  vmxonSize := 4096
  vmcsMemType := .writeback
  shadowVmcs := false
  unrestrictedGuest := false
  activityStates := [.active, .hlt, .shutdown, .waitForSipi]
  exitInfoWritable := false
  hasPerfGlobalCtrl := true
  hasPat := true
  hasEfer := true
  warmResetClearsFc := false
  vmxonFailKind := .gp
  vmxonRegionCheck := true
  vmxModes := [.unpagedProtected, .pagedProtected, .mode64]
  exiting := familyExiting
  exitRipNext := []
  exitInfo := familyExitInfo
  entryRules := []
  exitRules := []
  hostFields := familyHostFields
  hostRules := []
  hostCsBase := 0#64
  hostCsLimit := 0xFFFFFFFF#32
  hostCsAccess := [([], 0xA09B#32)]
  fieldEncoding := familyFieldEncoding
  unrestrictedGuestBit := 7
  vmcsShadowingBit := 14
  loadPerfGlobalCtrlBit := 13
  loadPatBit := 14
  loadEferBit := 15
  savePatBit := 18
  saveEferBit := 20
  operandByMode := true
  mwaitIdles := true
  reportInRflags := true
  upperBitsZero := true
  translation := []
  memMap := []

/-! The family's reset values, for registers whose reset value the spec does not give (PRESUMED, log 2). -/

def resetCr0 : Word := 0x60000010#64
/-- Bit 13 is 0 as 70_reset_and_hazards.md R276 says. -/
def resetCr4 : Word := 0#64
def resetDr7 : Word := 0x400#64
def resetRip : Word := 0xFFF0#64
def resetRflags : Word := 0x2#64
def resetRdx : Word := 0x600#64
def resetCsSelector : BitVec 16 := 0xF000#16
def resetCsBase : Word := 0xFFFF0000#64
def resetSegLimit : BitVec 32 := 0xFFFF#32
/-- Present, read and write, accessed. -/
def resetSegAccess : BitVec 32 := 0x93#32
def resetLdtrAccess : BitVec 32 := 0x82#32
/-- TR is usable although its selector is null (70_reset_and_hazards.md R277): bit 16 is 0. -/
def resetTrAccess : BitVec 32 := 0x8B#32
def resetTableLimit : BitVec 16 := 0xFFFF#16
def resetPat : Word := 0x0007040600070406#64
def resetPerfGlobalCtrl : Word := 0xF#64
def resetSmbase : BitVec 32 := 0x30000#32

end Sys2Proof.Machine
end

