-- ==== Sys2Proof/Machine/Table.lean ====
section
/-! DEFINITION. Sparse data by key: lists of key and value with strictly rising keys. Memory, the table of VMCSs and the
data of one VMCS are such lists. -/

namespace Sys2Proof.Machine

variable {β : Type}

/-- The value listed for a key. -/
def Table.find? (k : Nat) : List (Nat × β) → Option β
  | [] => none
  | (j, v) :: t => if j = k then some v else Table.find? k t

/-- List a value for a key, in its place. -/
def Table.insert (k : Nat) (v : β) : List (Nat × β) → List (Nat × β)
  | [] => [(k, v)]
  | (j, w) :: t =>
    if k < j then (k, v) :: (j, w) :: t
    else if k = j then (k, v) :: t
    else (j, w) :: Table.insert k v t

/-- List nothing for a key. -/
def Table.erase (k : Nat) : List (Nat × β) → List (Nat × β)
  | [] => []
  | (j, w) :: t => if j = k then Table.erase k t else (j, w) :: Table.erase k t

/-- Change every listed value. -/
def Table.mapVal (f : Nat → β → β) : List (Nat × β) → List (Nat × β)
  | [] => []
  | (j, w) :: t => (j, f j w) :: Table.mapVal f t

/-- Every key of the list is above `k`. -/
def Table.above (k : Nat) : List (Nat × β) → Bool
  | [] => true
  | (j, _) :: t => decide (k < j) && Table.above k t

/-- The keys rise strictly. -/
def Table.sorted : List (Nat × β) → Bool
  | [] => true
  | (j, _) :: t => Table.above j t && Table.sorted t

end Sys2Proof.Machine
end

