-- ==== Sys2Proof/Machine/State.lean ====
section
/-! DEFINITION. The state of one logical processor and of memory (10_state.md R20 to R79), the reasons a step can stop,
and the state after reset (70_reset_and_hazards.md R270 to R279). Plain data throughout. -/

namespace Sys2Proof.Machine

/-- The kinds of operation of 10_state.md R20. -/
inductive VmxMode
  | outside | root | nonRoot
  deriving DecidableEq, Repr

/-- The launch state of a VMCS (10_state.md R65). -/
inductive LaunchState
  | clear | launched | undefined
  deriving DecidableEq, Repr

/-- The general registers (10_state.md R40; log 6). -/
structure Gprs where
  rax : Word
  rcx : Word
  rdx : Word
  rbx : Word
  rsp : Word
  rbp : Word
  rsi : Word
  rdi : Word
  r8 : Word
  r9 : Word
  r10 : Word
  r11 : Word
  r12 : Word
  r13 : Word
  r14 : Word
  r15 : Word
  deriving DecidableEq, Repr

/-- The four parts of a segment register, independent of each other (10_state.md R43 to R48). -/
structure SegReg where
  selector : BitVec 16
  base : Word
  limit : BitVec 32
  access : BitVec 32
  deriving DecidableEq, Repr

/-- The segment registers of 10_state.md R43. -/
structure SegRegs where
  cs : SegReg
  ss : SegReg
  ds : SegReg
  es : SegReg
  fs : SegReg
  gs : SegReg
  ldtr : SegReg
  tr : SegReg
  deriving DecidableEq, Repr

/-- GDTR or IDTR (10_state.md R50). -/
structure DescTable where
  base : Word
  limit : BitVec 16
  deriving DecidableEq, Repr

/-- The logical contents of a VMCS (10_state.md R64, R65; 20_memory.md R99): its launch state, the values of the fields
something has written, and the model's number that the values of the others depend on (log 24). -/
structure Vmcs where
  launch : LaunchState
  data : List (Nat × Word)
  epoch : Nat
  deriving DecidableEq, Repr

/-- Physical memory: the bytes that do not read 0, by address (20_memory.md R80, R82; log 4). -/
abbrev Memory := List Host.Cell

/-- The events of 60_exceptions.md R237, R241 to R244 and 70_reset_and_hazards.md R270, R271 (log 42). -/
inductive Event
  /-- The INIT signal (R242). -/
  | init
  /-- An A20M interrupt that puts the processor in A20M mode, or takes it out (R243; log 44). -/
  | a20m (enter : Bool)
  /-- A startup IPI (R244). -/
  | sipi
  /-- An event that returns a processor inactive by HLT or MWAIT to the active state (R219, R268). -/
  | wake
  /-- A triple fault or some other serious error (R237). -/
  | tripleFault
  /-- A power-up reset (R271). -/
  | powerUpReset
  /-- A reset that is not a power-up reset (R271). -/
  | warmReset
  /-- An event the source leaves unnamed (R241). -/
  | other (n : Nat)
  deriving DecidableEq, Repr

/-- Why the machine stops with a fault. -/
inductive Fault
  /-- An access for which `Translate` answers an address outside the physical address space (20_memory.md R80), or one
  where the platform's memory map has nothing (R94; log 62); raised by operand loads and stores and by the fetch. Safe:
  such an address does not exist. -/
  | noSuchPhysicalAddress
  /-- A VM exit in NONROOT with no current VMCS, a state 42_vm_entry_exit.md R193 rules out; raised by `vmExit`. Safe:
  no run reaches it. -/
  | nonRootWithoutVmcs
  deriving DecidableEq, Repr

/-- Why the model gives a step no meaning (00_scope.md R18). Every one is safe: the model stops where the hardware may
go on. -/
inductive Refusal
  /-- An arm of exec that has no meaning yet. -/
  | notModelled (mnemonic : String)
  /-- The bytes at the program counter are no instruction of this spec; raised by the fetch (30_encoding.md R118 to
  R121). -/
  | undecodable (e : DecodeError)
  /-- A raised exception reaches the base architecture, whose delivery is not in the source (60_exceptions.md R240,
  D19); raised by the step after the exception. -/
  | exceptionDelivery (e : Exception)
  /-- A VMX instruction in NONROOT that is not in `EXITING` (41_vmcs_maintenance.md R150 line 2b). -/
  | nonRootNotExiting
  /-- VMCALL in ROOT at CPL 0 (42_vm_entry_exit.md R194 line 3). -/
  | vmcallInRoot
  /-- VMLAUNCH or VMRESUME with an undefined launch state (42_vm_entry_exit.md R183). -/
  | undefinedLaunchState
  /-- A VM exit for which `EXIT_INFO` gives no result (42_vm_entry_exit.md R202). -/
  | exitUndetermined
  /-- WRMSR of bits 63:3 of IA32_FEATURE_CONTROL (43_base_instructions.md R213 line 4). -/
  | featureControlReserved
  /-- A leaf of GETSEC other than SENTER and SEXIT (43_base_instructions.md R218). -/
  | getsecLeafNotInSpec
  /-- A store into the data of an active VMCS or into the VMXON region (20_memory.md R91; 40_vmx_enter_leave.md R137). -/
  | storeToProcessorRegion
  /-- INIT outside VMX operation (60_exceptions.md R242, D18). -/
  | initOutsideVmx
  /-- A SIPI in a state other than wait-for-SIPI that causes no VM exit (60_exceptions.md R244). -/
  | sipiNotWaiting
  /-- An unnamed event that causes no VM exit (42_vm_entry_exit.md R201). -/
  | eventNotInSpec
  /-- A load, store or fetch at a device of the platform, whose behaviour the spec leaves to the platform's memory map
  (20_memory.md R94, D14; log 62). -/
  | deviceAccess
  /-- VMXON, VMPTRLD or VMCLEAR of a region that lies in part where the platform has a device or nothing (20_memory.md
  R80, R94; log 62). -/
  | regionNotMemory
  deriving DecidableEq, Repr

/-- The state of the machine (10_state.md R79). -/
structure State where
  /-- The constants of the processor (00_scope.md R5 to R12; 10_state.md R37, R38). -/
  cfg : Config
  /-- R20 -/
  vmxMode : VmxMode
  /-- R24 to R26 -/
  cr0 : Word
  cr3 : Word
  cr4 : Word
  /-- The two further control registers of the base architecture (R79, opaque to this spec; log 36) -/
  cr2 : Word
  cr8 : Word
  /-- R39 -/
  dr7 : Word
  /-- R40 -/
  gprs : Gprs
  /-- R41 -/
  rip : Word
  /-- The model's own: the address of the next instruction (log 5). -/
  nextRip : Word
  /-- R42 -/
  rflags : Word
  /-- R43 -/
  segs : SegRegs
  /-- R50 -/
  gdtr : DescTable
  idtr : DescTable
  /-- R51 to R54 -/
  debugctl : Word
  sysenterCs : BitVec 32
  sysenterEsp : Word
  sysenterEip : Word
  perfGlobalCtrl : Word
  pat : Word
  efer : Word
  /-- The MSRs the processor has beside those of this spec, by address (R79, opaque to this spec; log 34) -/
  otherMsrs : List (Nat × Word)
  /-- R56 -/
  smbase : BitVec 32
  /-- R29 -/
  featureControl : Word
  /-- R34 -/
  smxOp : Bool
  /-- R35 -/
  a20m : Bool
  /-- R71 -/
  activity : Activity
  /-- R72 -/
  mwaitIdle : Bool
  /-- R73: bit 0 and, opaque, bits 31:1 of the interruptibility state -/
  blockingBySti : Bool
  interruptibilityRest : BitVec 31
  /-- R60 -/
  currentVmcs : Option Word
  /-- R61: the active VMCSs, in rising order -/
  active : List Word
  /-- R66 -/
  vmxonPtr : Word
  /-- A blocked INIT that stays pending (60_exceptions.md R242) -/
  initPending : Bool
  /-- R64, R65: the VMCSs by the address of their region -/
  vmcss : List (Nat × Vmcs)
  /-- 20_memory.md R80 -/
  mem : Memory
  /-- The model's own: an exception handed to the base architecture (60_exceptions.md R240; log 8). -/
  raised : Option Exception
  /-- The model's own: the abstract result of 60_exceptions.md R234. -/
  failed : Bool
  /-- The model's own: what happens at the coming steps; `none` is an instruction (60_exceptions.md R246; log 42). -/
  schedule : List (Option Event)
  /-- The model's own: the answers of `ENTRY_CHECK` to the coming VM entries (42_vm_entry_exit.md R189; log 21). -/
  entryVerdicts : List EntryVerdict
  /-- The model's own: the counter the free values depend on. -/
  draws : Nat
  deriving DecidableEq, Repr

/-- The general registers after reset (log 2). -/
def resetGprs : Gprs where
  rax := 0
  rcx := 0
  rdx := resetRdx
  rbx := 0
  rsp := 0
  rbp := 0
  rsi := 0
  rdi := 0
  r8 := 0
  r9 := 0
  r10 := 0
  r11 := 0
  r12 := 0
  r13 := 0
  r14 := 0
  r15 := 0

/-- A data segment register after reset (log 2). -/
def resetDataSeg : SegReg := ⟨0, 0, resetSegLimit, resetSegAccess⟩

/-- The segment registers after reset (70_reset_and_hazards.md R277; log 2). -/
def resetSegs : SegRegs where
  cs := ⟨resetCsSelector, resetCsBase, resetSegLimit, resetSegAccess⟩
  ss := resetDataSeg
  ds := resetDataSeg
  es := resetDataSeg
  fs := resetDataSeg
  gs := resetDataSeg
  ldtr := ⟨0, 0, resetSegLimit, resetLdtrAccess⟩
  tr := ⟨0, 0, resetSegLimit, resetTrAccess⟩

/-- The state right after reset (70_reset_and_hazards.md R270 to R279; log 1 to log 5). -/
def State.reset : State where
  cfg := familyConfig
  vmxMode := .outside
  cr0 := resetCr0
  cr3 := 0
  cr4 := resetCr4
  cr2 := 0
  cr8 := 0
  dr7 := resetDr7
  gprs := resetGprs
  rip := resetRip
  nextRip := 0
  rflags := resetRflags
  segs := resetSegs
  gdtr := ⟨0, resetTableLimit⟩
  idtr := ⟨0, resetTableLimit⟩
  debugctl := 0
  sysenterCs := 0
  sysenterEsp := 0
  sysenterEip := 0
  perfGlobalCtrl := resetPerfGlobalCtrl
  pat := resetPat
  efer := 0
  otherMsrs := []
  smbase := resetSmbase
  featureControl := 0
  smxOp := false
  a20m := false
  activity := .active
  mwaitIdle := false
  blockingBySti := false
  interruptibilityRest := 0
  currentVmcs := none
  active := []
  vmxonPtr := 0
  initPending := false
  vmcss := []
  mem := []
  raised := none
  failed := false
  schedule := []
  entryVerdicts := []
  draws := 0

end Sys2Proof.Machine
end

