-- ==== Sys2Proof/Machine/Ops.lean ====
section
/-! DEFINITION. The operations the instructions share: registers, memory, modes, the report of an outcome, and the two
traps: an exception handed to the base architecture, and the VM exit with its return, the VM entry. -/

namespace Sys2Proof.Machine

/-- What a step answers. -/
abbrev Result := Host.Outcome State Fault Refusal

/-! ## Registers -/

/-- A general register. -/
def Gprs.get (g : Gprs) : Reg → Word
  | .rax => g.rax
  | .rcx => g.rcx
  | .rdx => g.rdx
  | .rbx => g.rbx
  | .rsp => g.rsp
  | .rbp => g.rbp
  | .rsi => g.rsi
  | .rdi => g.rdi
  | .r8 => g.r8
  | .r9 => g.r9
  | .r10 => g.r10
  | .r11 => g.r11
  | .r12 => g.r12
  | .r13 => g.r13
  | .r14 => g.r14
  | .r15 => g.r15

/-- Write a general register. -/
def Gprs.set (g : Gprs) (r : Reg) (v : Word) : Gprs :=
  match r with
  | .rax => { g with rax := v }
  | .rcx => { g with rcx := v }
  | .rdx => { g with rdx := v }
  | .rbx => { g with rbx := v }
  | .rsp => { g with rsp := v }
  | .rbp => { g with rbp := v }
  | .rsi => { g with rsi := v }
  | .rdi => { g with rdi := v }
  | .r8 => { g with r8 := v }
  | .r9 => { g with r9 := v }
  | .r10 => { g with r10 := v }
  | .r11 => { g with r11 := v }
  | .r12 => { g with r12 := v }
  | .r13 => { g with r13 := v }
  | .r14 => { g with r14 := v }
  | .r15 => { g with r15 := v }

/-- A general register of the state. -/
def gpr (r : Reg) (s : State) : Word := s.gprs.get r

/-- Write a general register of the state. -/
def setGpr (r : Reg) (v : Word) (s : State) : State := { s with gprs := s.gprs.set r v }

/-- A segment register. -/
def SegRegs.get (g : SegRegs) : Seg → SegReg
  | .cs => g.cs
  | .ss => g.ss
  | .ds => g.ds
  | .es => g.es
  | .fs => g.fs
  | .gs => g.gs
  | .ldtr => g.ldtr
  | .tr => g.tr

/-- The value of the register that a field of the guest-state area corresponds to (10_state.md R70, R71, R73). -/
def regVal (s : State) (g : GuestReg) : Word :=
  match g with
  | .cr0 => s.cr0
  | .cr3 => s.cr3
  | .cr4 => s.cr4
  | .dr7 => s.dr7
  | .rsp => s.gprs.rsp
  | .rip => s.rip
  | .rflags => s.rflags
  | .selector r => (s.segs.get r).selector.setWidth 64
  | .base r => (s.segs.get r).base
  | .limit r => (s.segs.get r).limit.setWidth 64
  | .access r => (s.segs.get r).access.setWidth 64
  | .gdtrBase => s.gdtr.base
  | .gdtrLimit => s.gdtr.limit.setWidth 64
  | .idtrBase => s.idtr.base
  | .idtrLimit => s.idtr.limit.setWidth 64
  | .debugctl => s.debugctl
  | .sysenterCs => s.sysenterCs.setWidth 64
  | .sysenterEsp => s.sysenterEsp
  | .sysenterEip => s.sysenterEip
  | .perfGlobalCtrl => s.perfGlobalCtrl
  | .pat => s.pat
  | .efer => s.efer
  | .smbase => s.smbase.setWidth 64
  | .activity => activityCode s.activity
  | .interruptibility => (s.interruptibilityRest ++ BitVec.ofBool s.blockingBySti).setWidth 64

/-! ## Modes -/

/-- The current privilege level: the DPL field of SS (10_state.md R49). -/
def cpl (s : State) : BitVec 2 := s.segs.ss.access.extractLsb' 5 2

/-- The logical processor is in VMX operation (10_state.md R20). -/
def inVmx (s : State) : Bool := decide (s.vmxMode ≠ .outside)

/-- The base operating mode (60_exceptions.md R259; CS.L "64-bit mode active" 10_state.md R47; the places of CR0.PE,
CR0.PG are G3's, those of RFLAGS.VM and IA32_EFER.LMA PRESUMED; log 15). -/
def opMode (s : State) : OpMode :=
  if s.cr0.getLsbD 0 = false then .realAddress
  else if s.cfg.intel64 && s.segs.cs.access.getLsbD 13 then .mode64
  else if s.cfg.intel64 && s.efer.getLsbD 10 then .compatibility
  else if s.rflags.getLsbD 17 then .virtual8086
  else if s.cr0.getLsbD 31 = false then .unpagedProtected
  else .pagedProtected

/-- 64-bit mode is active. -/
def mode64 (s : State) : Bool := decide (opMode s = .mode64)

/-- `MODE_OK` (40_vmx_enter_leave.md R134): VMX instructions execute in the present operating mode. -/
def modeOk (s : State) : Bool := decide (opMode s ∈ s.cfg.vmxModes)

/-- A value cut to the natural width (00_scope.md R7). -/
def truncW (cfg : Config) (v : Word) : Word := truncTo (natWidth cfg) v

/-- An address or count within the width the present mode computes in: 64 bits in 64-bit mode, else 32 (log 13,
log 61). -/
def wrapMode (s : State) (v : Word) : Word := if mode64 s then v else low32 v

/-! ## Fixed bits of CR0 and CR4 -/

/-- `P_CR0_OK` (00_scope.md R11, read from the two MSRs as 93_implementation_defined.md G4 says; log 16). -/
def cr0Ok (cfg : Config) (v : Word) : Bool :=
  decide (v &&& cfg.cr0Fixed0 = cfg.cr0Fixed0) && decide (v &&& ~~~cfg.cr0Fixed1 = 0)

/-- `P_CR4_OK` (00_scope.md R11): for every processor it implies VMXE = 1. -/
def cr4Ok (cfg : Config) (v : Word) : Bool :=
  v.getLsbD 13 && decide (v &&& cfg.cr4Fixed0 = cfg.cr4Fixed0) && decide (v &&& ~~~cfg.cr4Fixed1 = 0)

/-- A CR0 value with PE and PG forced to 1 (10_state.md R28, places G3). -/
def forcePePg (v : Word) : Word := v ||| 0x80000001#64

/-! ## Pointers -/

/-- `PTRW` (00_scope.md R8). -/
def ptrWidth (cfg : Config) : Nat := if cfg.vmxBasic.getLsbD 48 then min cfg.paWidth 32 else cfg.paWidth

/-- `Aligned4K` (20_memory.md R84). -/
def aligned4K (p : Word) : Bool := decide (p.toNat % 4096 = 0)

/-- `InWidth` (20_memory.md R85). -/
def inWidth (cfg : Config) (p : Word) : Bool := decide (p.toNat < 2 ^ ptrWidth cfg)

/-- `ValidPtr` (20_memory.md R85). -/
def validPtr (cfg : Config) (p : Word) : Bool := aligned4K p && inWidth cfg p

/-- `P_VMCS_REVISION` (00_scope.md R9; in IA32_VMX_BASIC at G5's place). -/
def vmcsRevision (cfg : Config) : BitVec 31 := cfg.vmxBasic.extractLsb' 0 31

/-- `P_VMCS_SIZE` (00_scope.md R9; in IA32_VMX_BASIC at G5's place). -/
def vmcsSize (cfg : Config) : Nat := (cfg.vmxBasic.extractLsb' 32 13).toNat

/-! ## Physical memory -/

/-- A byte of physical memory; an unlisted byte reads 0 (log 4). -/
def Memory.read (m : Memory) (a : Nat) : Byte := (Table.find? a m).getD 0

/-- Write a byte of physical memory, and keep the canonical form. -/
def Memory.write (a : Nat) (b : Byte) (m : Memory) : Memory := if b = 0 then Table.erase a m else Table.insert a b m

/-- Write bytes to the addresses beside them. -/
def Memory.writeAll : List (Nat × Byte) → Memory → Memory
  | [], m => m
  | (a, b) :: t, m => Memory.writeAll t (Memory.write a b m)

/-- The canonical form: addresses strictly rising, no entry that reads as an unlisted byte. -/
def Memory.wf (m : Memory) : Bool := Table.sorted m && m.all (fun c => decide (c.2 ≠ 0))

/-- The physical address lies in a range of the platform's memory map of this kind (20_memory.md R94, D14; log 62). -/
def inMap (cfg : Config) (k : MemKind) (a : Nat) : Bool :=
  cfg.memMap.any (fun r => decide (r.kind = k) && decide (r.first ≤ a) && decide (a ≤ r.last))

/-- A store changes the byte at this physical address (log 62). -/
def writable (cfg : Config) (a : Nat) : Bool := !inMap cfg .readOnly a

/-- Write bytes where the platform's memory can be written; a store into read-only memory completes and changes nothing
(DESIGN CHOICE, log 62). -/
def storeBytes (cfg : Config) (l : List (Nat × Byte)) (m : Memory) : Memory :=
  Memory.writeAll (l.filter (fun c => writable cfg c.1)) m

/-- None of the `n` bytes from `p` on is a device's or absent: a region there is in memory (20_memory.md R80, R94;
log 62). -/
def regionInMemory (cfg : Config) (p : Word) (n : Nat) : Bool :=
  cfg.memMap.all (fun r =>
    decide (r.kind = .readOnly) || !(decide (max r.first p.toNat ≤ r.last) && decide (max r.first p.toNat < p.toNat + n)))

/-- The 4 bytes at a physical address (`PMemRead`, 00_scope.md R14; little-endian, 20_memory.md R89). -/
def physRead32 (m : Memory) (a : Nat) : BitVec 32 :=
  BitVec.ofNat 32 (leValue [Memory.read m a, Memory.read m (a + 1), Memory.read m (a + 2), Memory.read m (a + 3)])

/-- The VMCS revision identifier of the region at `p` (10_state.md R62, R63). -/
def headerRevision (m : Memory) (p : Word) : BitVec 31 := (physRead32 m p.toNat).extractLsb' 0 31

/-- The shadow-VMCS indicator of the region at `p` (10_state.md R62, R68). -/
def headerShadow (m : Memory) (p : Word) : Bool := (physRead32 m p.toNat).getLsbD 31

/-- The VMX-abort indicator of the region at `p` (10_state.md R62, R67): it controls nothing. -/
def headerAbort (m : Memory) (p : Word) : BitVec 32 := physRead32 m (p.toNat + 4)

/-- `VMXON_REGION_OK` (40_vmx_enter_leave.md R137, G8). -/
def vmxonRegionOk (s : State) (q : Word) : Bool :=
  !s.cfg.vmxonRegionCheck || (decide (headerRevision s.mem q = vmcsRevision s.cfg) && !headerShadow s.mem q)

/-! ## Regions the processor owns -/

/-- The address lies in the VMCS data of the region at `p` (10_state.md R62: from byte 8 on). -/
def inVmcsData (cfg : Config) (p : Word) (a : Nat) : Bool :=
  decide (p.toNat + 8 ≤ a) && decide (a < p.toNat + vmcsSize cfg)

/-- The address lies in the VMXON region while it belongs to the processor (40_vmx_enter_leave.md R137). -/
def inVmxonRegion (s : State) (a : Nat) : Bool :=
  inVmx s && decide (s.vmxonPtr.toNat ≤ a) && decide (a < s.vmxonPtr.toNat + s.cfg.vmxonSize)

/-- The address lies where loads give any value and stores are refused (20_memory.md R91, R99; D15; log 25). -/
def processorOwned (s : State) (a : Nat) : Bool :=
  s.active.any (fun p => inVmcsData s.cfg p a) || inVmxonRegion s a

/-- A byte as software loads it, and as the processor reads a bitmap or a page table: any value where the processor owns
the byte (20_memory.md R91, R99; log 25). -/
def loadByte (s : State) (a : Nat) : Byte :=
  if processorOwned s a then Config.freeByte s.draws a else Memory.read s.mem a

/-! ## VMCSs -/

/-- A VMCS nothing has written (10_state.md R65, 70_reset_and_hazards.md R285). -/
def undefinedVmcs (epoch : Nat) : Vmcs := { launch := .undefined, data := [], epoch := epoch }

/-- The VMCS whose region is at `p` (`V(p)`, 00_scope.md R14). -/
def vmcsAt (s : State) (p : Word) : Vmcs := (Table.find? p.toNat s.vmcss).getD (undefinedVmcs 0)

/-- Replace the VMCS at `p`. -/
def putVmcs (p : Word) (v : Vmcs) (s : State) : State := { s with vmcss := Table.insert p.toNat v s.vmcss }

/-- `V(p).data[f]`: what was written, or a value nothing constrains (41_vmcs_maintenance.md R163, R166; log 24). -/
def fieldVal (cfg : Config) (p : Word) (v : Vmcs) (f : Field) : Word :=
  truncTo (fieldWidth cfg f) ((Table.find? (fieldIdx f) v.data).getD (Config.undefinedField p v.epoch f))

/-- `V(p).data[f] <- x`, cut to the field's width. -/
def setField (cfg : Config) (f : Field) (x : Word) (v : Vmcs) : Vmcs :=
  { v with data := Table.insert (fieldIdx f) (truncTo (fieldWidth cfg f) x) v.data }

/-- A software store into the data of an inactive VMCS leaves it undefined: the data live in those bytes
(10_state.md R65, 20_memory.md R100; log 25). A VMCS that the table does not list is undefined already and keeps its
epoch, so what its fields read stays the same (DESIGN CHOICE, log 24). -/
def forgetTouched (cfg : Config) (epoch : Nat) (addrs : List Nat) (t : List (Nat × Vmcs)) : List (Nat × Vmcs) :=
  Table.mapVal
    (fun k v => if addrs.any (fun a => inVmcsData cfg (BitVec.ofNat 64 k) a) then undefinedVmcs epoch else v) t

/-- The VMCSs of `active` become undefined, in a new epoch, whether or not the table lists them: what a reset
(70_reset_and_hazards.md R272) and VMXOFF (40_vmx_enter_leave.md R142, D10; log 28) leave of them until the next
VMCLEAR. -/
def forgetActive (epoch : Nat) : List Word → List (Nat × Vmcs) → List (Nat × Vmcs)
  | [], t => t
  | p :: l, t => Table.insert p.toNat (undefinedVmcs epoch) (forgetActive epoch l t)

/-- The set of active VMCSs with `p` (10_state.md R61), in rising order. -/
def activate (p : Word) : List Word → List Word
  | [] => [p]
  | q :: t => if p < q then p :: q :: t else if p = q then q :: t else q :: activate p t

/-- The set of active VMCSs without `p` (10_state.md R61). -/
def deactivate (p : Word) (l : List Word) : List Word := l.filter (fun q => decide (q ≠ p))

/-- A control bit of the VMCS at `p`. -/
def ctlBit (cfg : Config) (p : Word) (v : Vmcs) (f : Field) (n : Nat) : Bool := (fieldVal cfg p v f).getLsbD n

/-- `UG(v)`: "unrestricted guest" is in force (10_state.md R28). -/
def unrestrictedGuest (cfg : Config) (p : Word) (v : Vmcs) : Bool :=
  cfg.unrestrictedGuest && ctlBit cfg p v .primaryProcCtls 31
    && ctlBit cfg p v .secondaryProcCtls cfg.unrestrictedGuestBit

/-- "VMCS shadowing" is in force (42_vm_entry_exit.md R190 line 4, R192). -/
def vmcsShadowing (cfg : Config) (p : Word) (v : Vmcs) : Bool :=
  ctlBit cfg p v .primaryProcCtls 31 && ctlBit cfg p v .secondaryProcCtls cfg.vmcsShadowingBit

/-- A guest's CR0 value is supported: `P_CR0_OK`, relaxed under unrestricted guest (10_state.md R28). -/
def guestCr0Ok (cfg : Config) (p : Word) (v : Vmcs) (x : Word) : Bool :=
  if unrestrictedGuest cfg p v then cr0Ok cfg (forcePePg x) else cr0Ok cfg x

/-- VMX operation admits this value of CR0 (10_state.md R27, R28). -/
def cr0Allowed (s : State) (x : Word) : Bool :=
  match s.vmxMode, s.currentVmcs with
  | .outside, _ => true
  | .root, _ => cr0Ok s.cfg x
  | .nonRoot, none => cr0Ok s.cfg x
  | .nonRoot, some p => guestCr0Ok s.cfg p (vmcsAt s p) x

/-- VMX operation admits this value of CR4 (10_state.md R27). -/
def cr4Allowed (s : State) (x : Word) : Bool :=
  match s.vmxMode with
  | .outside => true
  | .root => cr4Ok s.cfg x
  | .nonRoot => cr4Ok s.cfg x

/-! ## Outcomes -/

/-- Why an operation on an operand does not complete. -/
inductive Stop
  | exn (e : Exception)
  | fault (f : Fault)
  | refuse (r : Refusal)
  deriving DecidableEq, Repr

/-- A physical address that an access can reach: below 2^P_PAWIDTH (20_memory.md R80), and by the platform's memory map
neither absent nor a device's (R94, D14; log 62). -/
def reach (cfg : Config) (a : Nat) : Except Stop Nat :=
  if 2 ^ cfg.paWidth ≤ a || inMap cfg .absent a then .error (.fault .noSuchPhysicalAddress)
  else if inMap cfg .device a then .error (.refuse .deviceAccess)
  else .ok a

/-- `raise` (00_scope.md R14; 60_exceptions.md R232, R240): the exception is handed to the base architecture and no
state of 10_state.md changes (log 8). -/
def raise (e : Exception) (s : State) : Result := .next { s with raised := some e }

/-- The outcome of an instruction whose operand access stopped. -/
def stopWith (s : State) : Stop → Result
  | .exn e => raise e s
  | .fault f => .fault f
  | .refuse r => .refused r

/-- An instruction completes: execution continues at the next instruction, and blocking by STI ends (60_exceptions.md
R234, R299; 43_base_instructions.md R221; log 41). -/
def complete (s : State) : State := { s with rip := s.nextRip, blockingBySti := false, failed := false }

/-- A VMX instruction succeeds (G2; log 9). -/
def vmSucceed (s : State) : Result :=
  .next (complete { s with rflags := if s.cfg.reportInRflags then flagsSucceed s.rflags else s.rflags })

/-- The RFLAGS and the VM-instruction error field that report a failure (G2: with a current VMCS in ROOT, ZF and the
error number; else CF; log 9, log 10). -/
def reportFail (s : State) : State :=
  if s.cfg.reportInRflags then
    match s.vmxMode, s.currentVmcs with
    | .root, some p =>
      { s with
        rflags := flagsFailValid s.rflags
        vmcss := Table.insert p.toNat
          (setField s.cfg .vmInstructionError ((Config.vmInstructionError s.draws).setWidth 64) (vmcsAt s p)) s.vmcss }
    | _, _ => { s with rflags := flagsFailInvalid s.rflags }
  else s

/-- `VMfail` (00_scope.md R14; 60_exceptions.md R234): no effect but the report; execution continues. -/
def vmFail (s : State) : Result := .next { complete (reportFail s) with failed := true }

/-! ## Moving processor state between the registers and a VMCS -/

/-- The base address a segment register holds: 32 bits for CS, SS, DS, ES, else the natural width (10_state.md R45). -/
def archBase (cfg : Config) : Seg → Word → Word
  | .cs, x => low32 x
  | .ss, x => low32 x
  | .ds, x => low32 x
  | .es, x => low32 x
  | .fs, x => truncW cfg x
  | .gs, x => truncW cfg x
  | .ldtr, x => truncW cfg x
  | .tr, x => truncW cfg x

/-- Load the parts of a segment register that `sel` names. -/
def loadSeg (cfg : Config) (sel : GuestReg → Bool) (val : GuestReg → Word) (g : Seg) (r : SegReg) : SegReg :=
  { selector := if sel (.selector g) then (val (.selector g)).setWidth 16 else r.selector
    base := if sel (.base g) then archBase cfg g (val (.base g)) else r.base
    limit := if sel (.limit g) then (val (.limit g)).setWidth 32 else r.limit
    access := if sel (.access g) then (val (.access g)).setWidth 32 else r.access }

/-- Load the registers that `sel` names with the values `val` (10_state.md R70, R71, R73), each cut to its width: bits of
a field beyond its register (limits of GDTR and IDTR, bases of CS, SS, DS, ES) are dropped, which R50 and U9 leave open
(DESIGN CHOICE, log 54). -/
def loadRegs (sel : GuestReg → Bool) (val : GuestReg → Word) (s : State) : State :=
  { s with
    cr0 := if sel .cr0 then truncW s.cfg (val .cr0) else s.cr0
    cr3 := if sel .cr3 then truncW s.cfg (val .cr3) else s.cr3
    cr4 := if sel .cr4 then truncW s.cfg (val .cr4) else s.cr4
    dr7 := if sel .dr7 then truncW s.cfg (val .dr7) else s.dr7
    gprs := if sel .rsp then s.gprs.set .rsp (truncW s.cfg (val .rsp)) else s.gprs
    rip := if sel .rip then truncW s.cfg (val .rip) else s.rip
    rflags := if sel .rflags then truncW s.cfg (val .rflags) else s.rflags
    segs :=
      { cs := loadSeg s.cfg sel val .cs s.segs.cs
        ss := loadSeg s.cfg sel val .ss s.segs.ss
        ds := loadSeg s.cfg sel val .ds s.segs.ds
        es := loadSeg s.cfg sel val .es s.segs.es
        fs := loadSeg s.cfg sel val .fs s.segs.fs
        gs := loadSeg s.cfg sel val .gs s.segs.gs
        ldtr := loadSeg s.cfg sel val .ldtr s.segs.ldtr
        tr := loadSeg s.cfg sel val .tr s.segs.tr }
    gdtr :=
      { base := if sel .gdtrBase then truncW s.cfg (val .gdtrBase) else s.gdtr.base
        limit := if sel .gdtrLimit then (val .gdtrLimit).setWidth 16 else s.gdtr.limit }
    idtr :=
      { base := if sel .idtrBase then truncW s.cfg (val .idtrBase) else s.idtr.base
        limit := if sel .idtrLimit then (val .idtrLimit).setWidth 16 else s.idtr.limit }
    debugctl := if sel .debugctl then val .debugctl else s.debugctl
    sysenterCs := if sel .sysenterCs then (val .sysenterCs).setWidth 32 else s.sysenterCs
    sysenterEsp := if sel .sysenterEsp then truncW s.cfg (val .sysenterEsp) else s.sysenterEsp
    sysenterEip := if sel .sysenterEip then truncW s.cfg (val .sysenterEip) else s.sysenterEip
    perfGlobalCtrl := if sel .perfGlobalCtrl then val .perfGlobalCtrl else s.perfGlobalCtrl
    pat := if sel .pat then val .pat else s.pat
    efer := if sel .efer then val .efer else s.efer
    smbase := if sel .smbase then (val .smbase).setWidth 32 else s.smbase
    activity := if sel .activity then (activityOf (val .activity)).getD .active else s.activity
    blockingBySti := if sel .interruptibility then (val .interruptibility).getLsbD 0 else s.blockingBySti
    interruptibilityRest :=
      if sel .interruptibility then (val .interruptibility).extractLsb' 1 31 else s.interruptibilityRest }

/-- The access-rights bits that are not reserved (10_state.md R47: bit 13 for CS only). -/
def accessMask : Seg → BitVec 32
  | .cs => 0x1F0FF#32
  | _ => 0x1D0FF#32

/-- Bits `n` and up that a VM exit saves beyond a register of `n` bits: zero under G12, else any value (U9; log 54). -/
def saveUpper (s : State) (g : GuestReg) (n : Nat) : Word :=
  if s.cfg.upperBitsZero then 0 else Config.upperBits s.draws g &&& ~~~(BitVec.ofNat 64 (2 ^ n - 1))

/-- What a VM exit saves of a segment's base (10_state.md R45, U9). -/
def saveBase (s : State) (g : Seg) : Word :=
  match g with
  | .cs => s.segs.cs.base ||| saveUpper s (.base .cs) 32
  | .ss => s.segs.ss.base ||| saveUpper s (.base .ss) 32
  | .ds => s.segs.ds.base ||| saveUpper s (.base .ds) 32
  | .es => s.segs.es.base ||| saveUpper s (.base .es) 32
  | .fs => s.segs.fs.base
  | .gs => s.segs.gs.base
  | .ldtr => s.segs.ldtr.base
  | .tr => s.segs.tr.base

/-- The value of a register as a VM exit saves it, with `rip` for RIP (42_vm_entry_exit.md R197; reserved access-rights
bits zero, G12; a processor inactive by MWAIT saves its activity state, which is never a code for that condition,
10_state.md R72). -/
def saveVal (s : State) (rip : Word) : GuestReg → Word
  | .rip => rip
  | .base g => saveBase s g
  | .access g => ((s.segs.get g).access &&& accessMask g).setWidth 64
  | .gdtrLimit => s.gdtr.limit.setWidth 64 ||| saveUpper s .gdtrLimit 16
  | .idtrLimit => s.idtr.limit.setWidth 64 ||| saveUpper s .idtrLimit 16
  | g => regVal s g

/-- A condition on a field of the VMCS at `p` holds. -/
def ctlHolds (cfg : Config) (p : Word) (v : Vmcs) (c : CtlCond) : Bool :=
  ((fieldVal cfg p v c.field &&& c.mask) == c.value) == c.eq

/-- The rules for this register let a VM entry load it, or a VM exit save or load it (log 20, log 23). -/
def transfers (cfg : Config) (p : Word) (v : Vmcs) (rules : List TransferRule) (g : GuestReg) : Bool :=
  rules.all (fun r => !decide (r.reg = g) || r.conds.all (ctlHolds cfg p v))

/-- A VM exit saves this register (42_vm_entry_exit.md R197; 10_state.md R55: IA32_PAT and IA32_EFER under their "save"
controls; IA32_PERF_GLOBAL_CTRL, which has none, always, R70, 60_exceptions.md R267; log 23). -/
def savesOnExit (cfg : Config) (p : Word) (v : Vmcs) (g : GuestReg) : Bool :=
  hasGuestField cfg g && transfers cfg p v cfg.exitRules g &&
    match g with
    | .pat => ctlBit cfg p v .exitCtls cfg.savePatBit
    | .efer => ctlBit cfg p v .exitCtls cfg.saveEferBit
    | _ => true

/-- A VM entry loads this register (42_vm_entry_exit.md R190; 10_state.md R55: the three optional MSRs under their
"load" controls). -/
def loadsOnEntry (cfg : Config) (p : Word) (v : Vmcs) (g : GuestReg) : Bool :=
  hasGuestField cfg g && (alwaysLoaded g || transfers cfg p v cfg.entryRules g) &&
    match g with
    | .perfGlobalCtrl => ctlBit cfg p v .entryCtls cfg.loadPerfGlobalCtrlBit
    | .pat => ctlBit cfg p v .entryCtls cfg.loadPatBit
    | .efer => ctlBit cfg p v .entryCtls cfg.loadEferBit
    | _ => true

/-- Save registers into the guest-state area. -/
def saveGuest (cfg : Config) (saves : GuestReg → Bool) (val : GuestReg → Word) : List GuestReg → Vmcs → Vmcs
  | [], v => v
  | g :: t, v => saveGuest cfg saves val t (if saves g then setField cfg (.guest g) (val g) v else v)

/-- A VM exit loads this register from the host-state area: CR0, CR3, CR4, RIP and the selector of CS always, the others
as the VM-exit controls select (42_vm_entry_exit.md R196 line 3, R198; log 20). -/
def loadsOnExit (cfg : Config) (p : Word) (v : Vmcs) (g : GuestReg) : Bool :=
  hasField cfg (.host g) && (alwaysHost g || transfers cfg p v cfg.hostRules g)

/-- The access rights that CS has after a VM exit that loads none: the first line that applies, else those of a flat
32-bit code segment (20_memory.md R105; log 20). -/
def hostCsAccess (cfg : Config) (p : Word) (v : Vmcs) : List (List CtlCond × BitVec 32) → BitVec 32
  | [] => 0xC09B#32
  | (conds, a) :: t => if conds.all (ctlHolds cfg p v) then a else hostCsAccess cfg p v t

/-- CS after a VM exit: the parts that are not loaded do not stay the guest's (20_memory.md R105; log 20). -/
def hostCs (cfg : Config) (p : Word) (v : Vmcs) (r : SegReg) : SegReg :=
  { r with
    base := if loadsOnExit cfg p v (.base .cs) then r.base else low32 cfg.hostCsBase
    limit := if loadsOnExit cfg p v (.limit .cs) then r.limit else cfg.hostCsLimit
    access := if loadsOnExit cfg p v (.access .cs) then r.access else hostCsAccess cfg p v cfg.hostCsAccess }

/-- Load the host-state area of the VMCS at `p` (42_vm_entry_exit.md R196 line 3, R198): the registers that the VM-exit
controls select, and CS whole; the VMM then runs, active and unblocked, at the privilege level of system software
(log 20). -/
def loadHost (p : Word) (v : Vmcs) (s : State) : State :=
  let t := loadRegs (loadsOnExit s.cfg p v) (fun g => fieldVal s.cfg p v (.host g)) s
  { t with
    segs := { t.segs with
      cs := hostCs s.cfg p v t.segs.cs
      ss := { t.segs.ss with access := t.segs.ss.access &&& ~~~0x60#32 } }
    activity := .active
    mwaitIdle := false
    blockingBySti := false
    raised := none
    failed := false
    vmxMode := .root }

/-! ## The terms of the parameters -/

/-- The operands of an instruction, as far as a VM exit may depend on them; no value where the instruction has no such
operand, or where reading it faults. -/
structure OperandVals where
  source : Option Word
  field : Option Word
  register : Option Word
  address : Option Word
  deriving DecidableEq, Repr

/-- No operand. -/
def noOperands : OperandVals := ⟨none, none, none, none⟩

/-- An operand by its name. -/
def OperandVals.get (o : OperandVals) : OperandName → Option Word
  | .source => o.source
  | .field => o.field
  | .register => o.register
  | .address => o.address

/-- What may cause a VM exit: an instruction with its operands, or an event (42_vm_entry_exit.md R195, D5). -/
structure Trigger where
  cause : ExitCause
  operands : OperandVals
  deriving DecidableEq, Repr

/-- An event, or an instruction without operands. -/
def Trigger.plain (c : ExitCause) : Trigger := ⟨c, noOperands⟩

/-- A truth value as a number. -/
def bit (b : Bool) : Word := if b then 1 else 0

/-- The number of a VMX mode in a term. -/
def modeNumber : VmxMode → Word
  | .outside => 0
  | .root => 1
  | .nonRoot => 2

/-- The number of a launch state in a term. -/
def launchNumber : LaunchState → Word
  | .undefined => 0
  | .clear => 1
  | .launched => 2

/-- The value of a `SysReg`. -/
def sysVal (s : State) : SysReg → Option Word
  | .cr2 => some s.cr2
  | .cr8 => some s.cr8
  | .featureControl => some s.featureControl
  | .smxOp => some (bit s.smxOp)
  | .a20m => some (bit s.a20m)
  | .mwaitIdle => some (bit s.mwaitIdle)
  | .vmxonPtr => some s.vmxonPtr
  | .nextRip => some s.nextRip
  | .vmxMode => some (modeNumber s.vmxMode)
  | .launchState => s.currentVmcs.map (fun p => launchNumber (vmcsAt s p).launch)
  | .currentVmcs => s.currentVmcs
  | .otherMsr a => if a ∈ s.cfg.otherMsrs then some ((Table.find? a.toNat s.otherMsrs).getD 0) else none

/-- The value of an operation of a term. -/
def evalOp : TermOp → Word → Word → Word
  | .and, x, y => x &&& y
  | .or, x, y => x ||| y
  | .xor, x, y => x ^^^ y
  | .add, x, y => x + y
  | .shl, x, y => x <<< y.toNat
  | .shr, x, y => x >>> y.toNat
  | .ltu, x, y => bit (decide (x < y))
  | .eq, x, y => bit (decide (x = y))

/-- The byte of memory that a term names: any value where the processor owns it (20_memory.md R99, R137; log 25), and no
value where the physical address space or the platform's memory map has no byte to read (R80, R94; DESIGN CHOICE,
log 17). -/
def termByte (s : State) (a : Nat) : Option Byte :=
  match reach s.cfg a with
  | .ok a => some (loadByte s a)
  | .error _ => none

/-- The value of a term in a state, with the operands of the instruction at hand; no value where it names an operand, a
VMCS or a byte that is not there (log 17). -/
def evalTerm (s : State) (o : OperandVals) : StateTerm → Option Word
  | .const x => some x
  | .field f => s.currentVmcs.map (fun p => fieldVal s.cfg p (vmcsAt s p) f)
  | .reg g => some (regVal s g)
  | .gpr r => some (gpr r s)
  | .sys x => sysVal s x
  | .operand n => o.get n
  | .byte a => (evalTerm s o a).bind (fun x => (termByte s x.toNat).map (fun b => b.setWidth 64))
  | .isActive p => (evalTerm s o p).map (fun x => bit (decide (x ∈ s.active)))
  | .op n a b =>
    match evalTerm s o a, evalTerm s o b with
    | some x, some y => some (evalOp n x y)
    | _, _ => none
  | .orElse a b =>
    match evalTerm s o a with
    | some x => some x
    | none => evalTerm s o b

/-- A condition on terms holds; not where a term has no value, so an operand that cannot be read causes no VM exit that
depends on it. -/
def condHolds (s : State) (o : OperandVals) (c : TermCond) : Bool :=
  match evalTerm s o c.lhs, evalTerm s o c.rhs with
  | some x, some y => (x == y) == c.eq
  | _, _ => false

/-! ## VM exits -/

/-- One line of a predicate over causes and states applies (42_vm_entry_exit.md R195, D5). -/
def ruleApplies (s : State) (g : Trigger) (r : ExitRule) : Bool :=
  decide (r.cause = g.cause) && r.conds.all (condHolds s g.operands)

/-- The instruction or event is in `EXITING`: VMCALL and INIT always (42_vm_entry_exit.md R195). -/
def exits (s : State) (g : Trigger) : Bool :=
  decide (g.cause = .vmcall) || decide (g.cause = .init) || s.cfg.exiting.any (ruleApplies s g)

/-- `EXIT_RIP` (42_vm_entry_exit.md R197): the exiting instruction's own address unless the parameter says the next
one's; for an event and an exception always the address in RIP, whatever the parameter says (DESIGN CHOICE, log 18). -/
def exitRip (s : State) (g : Trigger) : Word :=
  if isInstrCause g.cause && s.cfg.exitRipNext.any (ruleApplies s g) then s.nextRip else s.rip

/-- The values that the VM-exit information fields receive. -/
structure ExitValues where
  reason : Word
  qualification : Word
  interruption : Word
  deriving DecidableEq, Repr

/-- `EXIT_INFO(reason, LP)` (42_vm_entry_exit.md R196 line 2, R199); a term without a value records 0 (log 19). -/
def recordValues (s : State) (o : OperandVals) (r : ExitRecord) : ExitValues :=
  { reason := (evalTerm s o r.reason).getD 0
    qualification := (evalTerm s o r.qualification).getD 0
    interruption := (evalTerm s o r.interruption).getD 0 }

/-- Record the cause in the VM-exit information fields (42_vm_entry_exit.md R199; log 19). -/
def recordExit (cfg : Config) (x : ExitValues) (v : Vmcs) : Vmcs :=
  setField cfg .interruptionInfo x.interruption
    (setField cfg .exitQualification x.qualification (setField cfg .exitReason x.reason v))

/-- The VMCS at `p` after a VM exit saved the guest and recorded the cause (42_vm_entry_exit.md R196 lines 1 and 2). -/
def exitVmcs (s : State) (p : Word) (g : Trigger) (r : ExitRecord) : Vmcs :=
  recordExit s.cfg (recordValues s g.operands r)
    (saveGuest s.cfg (savesOnExit s.cfg p (vmcsAt s p)) (saveVal s (exitRip s g)) allGuestRegs (vmcsAt s p))

/-- The VM exit (42_vm_entry_exit.md R196 to R200; 60_exceptions.md R249 to R251): the trap from a guest into the VMM. -/
def vmExit (g : Trigger) (s : State) : Result :=
  match s.currentVmcs, lookupExitInfo g.cause s.cfg.exitInfo with
  | none, _ => .fault .nonRootWithoutVmcs
  | some _, none => .refused .exitUndetermined
  | some p, some r => .next (loadHost p (exitVmcs s p g r) (putVmcs p (exitVmcs s p g r) s))

/-! ## VM entries -/

/-- The guest-state values a VM entry checks are supported (42_vm_entry_exit.md R191; the activity state, U11). -/
def guestStateOk (s : State) (p : Word) (v : Vmcs) : Bool :=
  guestCr0Ok s.cfg p v (fieldVal s.cfg p v (.guest .cr0)) && cr4Ok s.cfg (fieldVal s.cfg p v (.guest .cr4)) &&
    match activityOf (fieldVal s.cfg p v (.guest .activity)) with
    | none => false
    | some a => decide (a = .active) || decide (a ∈ s.cfg.activityStates)

/-- The host-state CR0 and CR4 values are supported (42_vm_entry_exit.md R198). -/
def hostStateOk (s : State) (p : Word) (v : Vmcs) : Bool :=
  cr0Ok s.cfg (fieldVal s.cfg p v (.host .cr0)) && cr4Ok s.cfg (fieldVal s.cfg p v (.host .cr4))

/-- `ENTRY_CHECK` (42_vm_entry_exit.md R189): what the processor answers, but never `pass` where R191, R198 or U11
forbid it (log 21). An entry with a bad host value, and one with a bad guest value for which the answer is `pass`, fails
early: R189, D13 and U11 leave open whether it fails early or late (DESIGN CHOICE, log 21). -/
def entryCheck (s : State) (p : Word) : EntryVerdict :=
  let v := vmcsAt s p
  if !hostStateOk s p v then .failEarly
  else if s.entryVerdicts.headD .pass = .pass && !guestStateOk s p v then .failEarly
  else s.entryVerdicts.headD .pass

/-- The state after a successful VM entry (42_vm_entry_exit.md R190 lines 2 to 5, R192). -/
def enterGuest (p : Word) (isLaunch : Bool) (s : State) : State :=
  let v := vmcsAt s p
  let t := loadRegs (loadsOnEntry s.cfg p v) (fun g => fieldVal s.cfg p v (.guest g)) s
  { t with
    vmcss := if isLaunch then Table.insert p.toNat { v with launch := .launched } s.vmcss else s.vmcss
    active := if vmcsShadowing s.cfg p v then activate (fieldVal s.cfg p v .linkPointer) s.active else s.active
    vmxMode := .nonRoot
    mwaitIdle := false
    failed := false }

/-- A VM entry that fails late: reported like a VM exit that reloads host state; nothing of the guest is saved, the
launch state stays and the mode stays ROOT (42_vm_entry_exit.md R189, D13, G9; log 22). -/
def failEntryLate (p : Word) (s : State) : Result :=
  match lookupExitInfo .entryFailure s.cfg.exitInfo with
  | none => .refused .exitUndetermined
  | some r =>
    let v := recordExit s.cfg (recordValues s noOperands r) (vmcsAt s p)
    .next (loadHost p v (putVmcs p v s))

/-- `VM_ENTRY` (42_vm_entry_exit.md R190): the return into a guest. One answer of `ENTRY_CHECK` is used up. -/
def vmEntry (p : Word) (isLaunch : Bool) (s : State) : Result :=
  let t := { s with entryVerdicts := s.entryVerdicts.tail }
  match entryCheck s p with
  | .failEarly => vmFail t
  | .failLate => failEntryLate p t
  | .pass => .next (enterGuest p isLaunch t)

/-! ## What precedes an instruction's own effect -/

/-- `VMX_PROLOGUE` (41_vmcs_maintenance.md R150), then the instruction's own effect in ROOT at CPL 0. -/
def vmxPrologue (g : Trigger) (s : State) (body : State → Result) : Result :=
  if !inVmx s || !modeOk s then raise .invalidOpcode s
  else if s.vmxMode = .nonRoot then
    if exits s g then vmExit g s else .refused .nonRootNotExiting
  else if cpl s ≠ 0 then raise .generalProtection s
  else body s

/-- A base instruction: a VM exit replaces its ordinary operation in NONROOT if it is in `EXITING`
(42_vm_entry_exit.md R195; 43_base_instructions.md R222). -/
def basePrologue (g : Trigger) (s : State) (body : State → Result) : Result :=
  if s.vmxMode = .nonRoot && exits s g then vmExit g s else body s

/-- A privileged base instruction: also the general-protection exception at CPL other than 0 (base architecture,
PRESUMED; G13 for WRMSR; log 36). -/
def privileged (g : Trigger) (s : State) (body : State → Result) : Result :=
  basePrologue g s (fun s => if cpl s ≠ 0 then raise .generalProtection s else body s)

/-! ## Address translation and access to memory -/

/-- What a term of `Translate` may name beside the state: the linear address. -/
def addressOnly (lin : Word) : OperandVals := { noOperands with address := some lin }

/-- The first answer of `Translate` that applies (20_memory.md R96). -/
def findTranslation (s : State) (acc : Access) (lin : Word) : List TransEntry → Option TransEntry
  | [] => none
  | e :: t =>
    if e.access = acc ∧ e.conds.all (condHolds s (addressOnly lin)) = true then some e else findTranslation s acc lin t

/-- `Translate(LP, linear, access)` (20_memory.md R96): the physical address of a linear one, which the platform's memory
map lets an access reach (R94); identity where nothing is listed (log 14). -/
def translate (s : State) (acc : Access) (lin : Word) : Except Stop Nat :=
  match findTranslation s acc lin s.cfg.translation with
  | none => if lin.toNat < 2 ^ s.cfg.paWidth then reach s.cfg lin.toNat else .error (.exn .operandAccess)
  | some e =>
    match e.frame.bind (evalTerm s (addressOnly lin)) with
    | none => .error (.exn .operandAccess)
    | some f => reach s.cfg (f.toNat * 4096 + lin.toNat % 4096)

/-- The physical addresses of `n` bytes from a linear address on. -/
def physAddrs (s : State) (acc : Access) : Nat → Word → Except Stop (List Nat)
  | 0, _ => .ok []
  | n + 1, lin =>
    match translate s acc lin, physAddrs s acc n (wrapMode s (lin + 1)) with
    | .ok a, .ok t => .ok (a :: t)
    | .error e, _ => .error e
    | .ok _, .error e => .error e

/-- `MemRead` (00_scope.md R14) of `n` bytes, at most 8. -/
def memRead (s : State) (lin : Word) (n : Nat) : Except Stop Word :=
  match physAddrs s .read n lin with
  | .ok as => .ok (BitVec.ofNat 64 (leValue (as.map (loadByte s))))
  | .error e => .error e

/-- Store bytes at physical addresses: the memory, and what becomes of VMCSs whose data they overwrite. -/
def storeAt (as : List Nat) (bs : List Byte) (s : State) : State :=
  { s with
    mem := storeBytes s.cfg (as.zip bs) s.mem
    vmcss := forgetTouched s.cfg (s.draws + 1) (as.filter (writable s.cfg)) s.vmcss }

/-- `MemWrite` (00_scope.md R14) of the `n` low bytes of a value: all of them or none. -/
def memWrite (s : State) (lin : Word) (n : Nat) (v : Word) : Except Stop State :=
  match physAddrs s .write n lin with
  | .ok as =>
    if as.any (processorOwned s) then .error (.refuse .storeToProcessorRegion)
    else .ok (storeAt as (leBytes n v.toNat) s)
  | .error e => .error e

/-- The bytes of the VMCS data that VMCLEAR and a reset leave in a region: a format nothing can read (20_memory.md R100,
70_reset_and_hazards.md R272; log 26). -/
def imageBytes (cfg : Config) (draw : Nat) (p : Word) : List (Nat × Byte) :=
  (List.range (vmcsSize cfg - 8)).map (fun i => (p.toNat + 8 + i, Config.imageByte draw (p.toNat + 8 + i)))

/-! ## Model-specific registers -/

/-- The MSRs of this spec (10_state.md R29, R37, R51 to R54) and, by address, the others (R79). -/
inductive Msr
  | featureControl
  | vmxBasic | vmxMisc | vmxCr0Fixed0 | vmxCr0Fixed1 | vmxCr4Fixed0 | vmxCr4Fixed1 | vmxProcbasedCtls2
  | debugctl | sysenterCs | sysenterEsp | sysenterEip | perfGlobalCtrl | pat | efer
  | other (a : BitVec 32)
  deriving DecidableEq, Repr

/-- A capability MSR, on a processor that has VMX. -/
def ifVmx (cfg : Config) (r : Msr) : Option Msr := if cfg.vmx then some r else none

/-- The MSR at an address: 3AH (10_state.md R29); the others as 93_implementation_defined.md G5 gives them; else one the
processor has beside them, or none (log 34). A processor without VMX has no capability MSRs: what a read of one does
there is not in the source (43_base_instructions.md R212; PRESUMED, log 63). -/
def msrAt (cfg : Config) (a : BitVec 32) : Option Msr :=
  match a.toNat with
  | 0x3A => some .featureControl
  | 0x480 => ifVmx cfg .vmxBasic
  | 0x485 => ifVmx cfg .vmxMisc
  | 0x486 => ifVmx cfg .vmxCr0Fixed0
  | 0x487 => ifVmx cfg .vmxCr0Fixed1
  | 0x488 => ifVmx cfg .vmxCr4Fixed0
  | 0x489 => ifVmx cfg .vmxCr4Fixed1
  | 0x48B => ifVmx cfg .vmxProcbasedCtls2
  | 0x1D9 => some .debugctl
  | 0x174 => some .sysenterCs
  | 0x175 => some .sysenterEsp
  | 0x176 => some .sysenterEip
  | 0x38F => some .perfGlobalCtrl
  | 0x277 => some .pat
  | 0xC0000080 => some .efer
  | _ => if a ∈ cfg.otherMsrs then some (.other a) else none

/-- What a read of an MSR returns (43_base_instructions.md R212). -/
def readMsr (s : State) : Msr → Word
  | .featureControl => s.featureControl
  | .vmxBasic => s.cfg.vmxBasic
  | .vmxMisc => s.cfg.vmxMisc
  | .vmxCr0Fixed0 => s.cfg.cr0Fixed0
  | .vmxCr0Fixed1 => s.cfg.cr0Fixed1
  | .vmxCr4Fixed0 => s.cfg.cr4Fixed0
  | .vmxCr4Fixed1 => s.cfg.cr4Fixed1
  | .vmxProcbasedCtls2 => s.cfg.vmxProcbasedCtls2
  | .debugctl => s.debugctl
  | .sysenterCs => s.sysenterCs.setWidth 64
  | .sysenterEsp => s.sysenterEsp
  | .sysenterEip => s.sysenterEip
  | .perfGlobalCtrl => s.perfGlobalCtrl
  | .pat => s.pat
  | .efer => s.efer
  | .other a => (Table.find? a.toNat s.otherMsrs).getD 0

end Sys2Proof.Machine
end

