-- ==== Sys2Proof/Machine/Operands.lean ====
section
/-! DEFINITION. Operands: the address of a memory operand, and reading and writing register and memory operands
(30_encoding.md R114, R115, R119, R123; general knowledge, log 12, log 13, log 52). -/

namespace Sys2Proof.Machine

/-- A displacement, sign-extended. -/
def dispVal : Disp → Word
  | .none => 0
  | .d8 d => d.signExtend 64
  | .d32 d => d.signExtend 64

/-- A scaled index: RSP as index stands for none. -/
def indexVal (s : State) (scale : BitVec 2) (index : Reg) : Word :=
  if index = .rsp then 0 else gpr index s <<< scale.toNat

/-- A displacement of a 16-bit form, sign-extended. -/
def disp16Val : Disp16 → Word
  | .none => 0
  | .d8 d => d.signExtend 64
  | .d16 d => d.signExtend 64

/-- The sum of the base registers of a 16-bit form (log 13). -/
def base16Val (s : State) : Base16 → Word
  | .bxSi => gpr .rbx s + gpr .rsi s
  | .bxDi => gpr .rbx s + gpr .rdi s
  | .bpSi => gpr .rbp s + gpr .rsi s
  | .bpDi => gpr .rbp s + gpr .rdi s
  | .si => gpr .rsi s
  | .di => gpr .rdi s
  | .bp => gpr .rbp s
  | .bx => gpr .rbx s

/-- An addressing form's address, before it is cut to the address size. -/
def formVal (s : State) : AddrForm → Word
  | .base b d => gpr b s + dispVal d
  | .rel d => if mode64 s then s.nextRip + d.signExtend 64 else d.signExtend 64
  | .sib b scale index d => gpr b s + indexVal s scale index + dispVal d
  | .sibNoBase scale index d => indexVal s scale index + d.signExtend 64
  | .base16 b d => base16Val s b + disp16Val d
  | .abs16 d => d.signExtend 64

/-- `ea(m)` of 30_encoding.md R114: 16 bits for a form of 16-bit addressing, 64 in 64-bit mode without `67H`, else 32
(log 13). -/
def effAddr (s : State) (m : MemOperand) : Word :=
  if m.form.is16 then truncTo 16 (formVal s m.form)
  else if mode64 s && !m.addrPrefix then formVal s m.form
  else low32 (formVal s m.form)

/-- BP is among the base registers of a 16-bit form. -/
def usesBp : Base16 → Bool
  | .bpSi => true
  | .bpDi => true
  | .bp => true
  | _ => false

/-- A base register that makes SS the default segment. -/
def usesSs : AddrForm → Bool
  | .base b _ => decide (b = .rsp) || decide (b = .rbp)
  | .rel _ => false
  | .sib b _ _ _ => decide (b = .rsp) || decide (b = .rbp)
  | .sibNoBase _ _ _ => false
  | .base16 b _ => usesBp b
  | .abs16 _ => false

/-- The segment of a memory operand: its override, else SS or DS. -/
def operandSeg (m : MemOperand) : Seg := m.seg.getD (if usesSs m.form then .ss else .ds)

/-- The base address a segment adds: in 64-bit mode only that of FS and GS. -/
def segBase (s : State) (g : Seg) : Word :=
  if mode64 s && !(decide (g = .fs) || decide (g = .gs)) then 0 else (s.segs.get g).base

/-- The linear address of a memory operand. -/
def linearAddr (s : State) (m : MemOperand) : Word := wrapMode s (segBase s (operandSeg m) + effAddr s m)

/-- "Attempts to use such a segment fault except in 64-bit mode" (10_state.md R48). -/
def segUsable (s : State) (g : Seg) : Bool := mode64 s || !(s.segs.get g).access.getLsbD 16

/-- Read `n` bytes at a memory operand. -/
def readMem (s : State) (m : MemOperand) (n : Nat) : Except Stop Word :=
  if segUsable s (operandSeg m) then memRead s (linearAddr s m) n else .error (.exn .unusableSegment)

/-- Write the `n` low bytes of a value at a memory operand. -/
def writeMem (s : State) (m : MemOperand) (n : Nat) (v : Word) : Except Stop State :=
  if segUsable s (operandSeg m) then memWrite s (linearAddr s m) n v else .error (.exn .unusableSegment)

/-- 64 in 64-bit mode, else 32: the operand size of a move to or from a control register (log 36). -/
def modeBits (s : State) : Nat := if mode64 s then 64 else 32

/-- The operand size of VMREAD and VMWRITE in bytes: by the mode, 8 in 64-bit mode and else 4 (30_encoding.md R120,
R123), or W bits in every mode (41_vmcs_maintenance.md R163 line 7, 30_encoding.md R115), as the constant says
(log 52). -/
def operandBytes (s : State) : Nat := if s.cfg.operandByMode then modeBits s / 8 else natWidth s.cfg / 8

/-- Read an `r/m` operand of `n` bytes. -/
def readRm (s : State) (o : RmOperand) (n : Nat) : Except Stop Word :=
  match o with
  | .reg r => .ok (truncTo (8 * n) (gpr r s))
  | .mem m => readMem s m n

/-- Write an `r/m` operand of `n` bytes; a register takes the value zero-extended. -/
def writeRm (s : State) (o : RmOperand) (n : Nat) (v : Word) : Except Stop State :=
  match o with
  | .reg r => .ok (setGpr r (truncTo (8 * n) v) s)
  | .mem m => writeMem s m n v

/-- The field that an operand value selects, if the processor has it (41_vmcs_maintenance.md R163 lines 4 and 5). -/
def selectField (s : State) (r : Reg) : Option FieldAccess :=
  match lookupEncoding (truncTo (8 * operandBytes s) (gpr r s)) s.cfg.fieldEncoding with
  | none => none
  | some f => if hasField s.cfg f.field then some f else none

/-- What VMREAD returns of a field: all of it, or its high half (41_vmcs_maintenance.md R163 line 7, R165). -/
def readAccess (s : State) (p : Word) (f : FieldAccess) : Word :=
  let x := fieldVal s.cfg p (vmcsAt s p) f.field
  if f.high then x >>> 32 else x

/-- What VMWRITE stores in a field: the source, or the source in the field's high half (41_vmcs_maintenance.md R168
line 7, R165). -/
def writeAccess (s : State) (p : Word) (f : FieldAccess) (x : Word) : Word :=
  if f.high then (x <<< 32) ||| low32 (fieldVal s.cfg p (vmcsAt s p) f.field) else x

/-- A control register by its number (10_state.md R24 to R26; CR2 and, in 64-bit mode, CR8 are the base architecture's,
the other numbers name none: PRESUMED, log 36). -/
def readCr (s : State) (n : BitVec 4) : Option Word :=
  match n.toNat with
  | 0 => some s.cr0
  | 2 => some s.cr2
  | 3 => some s.cr3
  | 4 => some s.cr4
  | 8 => if mode64 s then some s.cr8 else none
  | _ => none

/-- The source of a move to a control register: 64 bits in 64-bit mode, else the low 32 (log 36). -/
def crSource (src : Reg) (s : State) : Word := truncTo (modeBits s) (gpr src s)

/-! ## What a VM exit may depend on -/

/-- The name under which an instruction stands in `EXITING` (42_vm_entry_exit.md R195). -/
def causeOf : Instr → ExitCause
  | .vmcall => .vmcall
  | .vmlaunch => .vmlaunch
  | .vmresume => .vmresume
  | .vmxoff => .vmxoff
  | .vmptrld _ => .vmptrld
  | .vmclear _ => .vmclear
  | .vmxon _ => .vmxon
  | .vmptrst _ => .vmptrst
  | .vmread _ _ => .vmread
  | .vmwrite _ _ => .vmwrite
  | .cpuid => .cpuid
  | .wrmsr => .wrmsr
  | .movToCr cr _ => .movToCr cr
  | .movFromCr _ cr => .movFromCr cr
  | .clts => .clts
  | .lmsw _ => .lmsw
  | .getsec => .getsec
  | .hlt => .hlt
  | .mwait => .mwait
  | .sti => .sti

/-- The number of a general register. -/
def regNumber (r : Reg) : Word := BitVec.ofNat 64 (r.lo.toNat + if r.hi then 8 else 0)

/-- A value that was read, or none. -/
def readValue : Except Stop Word → Option Word
  | .ok x => some x
  | .error _ => none

/-- A memory operand of `n` bytes that is read. -/
def memSource (s : State) (m : MemOperand) (n : Nat) : OperandVals :=
  { noOperands with
    source := readValue (readMem s m n)
    address := some (linearAddr s m) }

/-- A memory operand that is written. -/
def memDest (s : State) (m : MemOperand) : OperandVals := { noOperands with address := some (linearAddr s m) }

/-- A register or memory operand of `n` bytes that is read. -/
def rmSource (s : State) (o : RmOperand) (n : Nat) : OperandVals :=
  match o with
  | .reg r => { noOperands with source := some (truncTo (8 * n) (gpr r s)), register := some (regNumber r) }
  | .mem m => memSource s m n

/-- A register or memory operand that is written. -/
def rmDest (s : State) (o : RmOperand) : OperandVals :=
  match o with
  | .reg r => { noOperands with register := some (regNumber r) }
  | .mem m => memDest s m

/-- The operands of an instruction, as far as a VM exit may depend on them (42_vm_entry_exit.md R195, D5). -/
def operandsOf (s : State) : Instr → OperandVals
  | .vmptrld m => memSource s m 8
  | .vmclear m => memSource s m 8
  | .vmxon m => memSource s m 8
  | .vmptrst m => memDest s m
  | .vmread dst field => { rmDest s dst with field := some (truncTo (8 * operandBytes s) (gpr field s)) }
  | .vmwrite field src =>
    { rmSource s src (operandBytes s) with field := some (truncTo (8 * operandBytes s) (gpr field s)) }
  | .movToCr _ src => { noOperands with source := some (crSource src s), register := some (regNumber src) }
  | .movFromCr dst _ => { noOperands with register := some (regNumber dst) }
  | .lmsw src => rmSource s src 2
  | .vmcall => noOperands
  | .vmlaunch => noOperands
  | .vmresume => noOperands
  | .vmxoff => noOperands
  | .cpuid => noOperands
  | .wrmsr => noOperands
  | .clts => noOperands
  | .getsec => noOperands
  | .hlt => noOperands
  | .mwait => noOperands
  | .sti => noOperands

/-- An instruction as a possible cause of a VM exit (42_vm_entry_exit.md R195). -/
def triggerOf (i : Instr) (s : State) : Trigger := ⟨causeOf i, operandsOf s i⟩

end Sys2Proof.Machine
end

