-- ==== Sys2Proof/Machine/Base.lean ====
section
/-! DEFINITION. The base-architecture instructions as far as VMX touches them (43_base_instructions.md). -/

namespace Sys2Proof.Machine

/-! ## CPUID -/

/-- EAX of CPUID: for leaf 80000008H bits 7:0 are `P_PAWIDTH` (43_base_instructions.md R211); the rest is open (log 35). -/
def cpuidEax (s : State) : BitVec 32 :=
  if (gpr .rax s).setWidth 32 = 0x80000008#32 then
    (Config.cpuidOutput s.draws .rax).extractLsb' 8 24 ++ BitVec.ofNat 8 s.cfg.paWidth
  else Config.cpuidOutput s.draws .rax

/-- ECX of CPUID: for leaf 1 bit 5 is `P_VMX` (43_base_instructions.md R210); the rest is open (log 35). -/
def cpuidEcx (s : State) : BitVec 32 :=
  let x := Config.cpuidOutput s.draws .rcx
  if (gpr .rax s).setWidth 32 = 1#32 then x.extractLsb' 6 26 ++ (BitVec.ofBool s.cfg.vmx ++ x.extractLsb' 0 5) else x

/-- The general registers after CPUID: EAX, EBX, ECX and EDX, zero-extended. -/
def cpuidGprs (s : State) : Gprs :=
  { s.gprs with
    rax := (cpuidEax s).setWidth 64
    rbx := (Config.cpuidOutput s.draws .rbx).setWidth 64
    rcx := (cpuidEcx s).setWidth 64
    rdx := (Config.cpuidOutput s.draws .rdx).setWidth 64 }

/-- CPUID (43_base_instructions.md R210, R211). -/
def execCpuid (s : State) : Result :=
  basePrologue (triggerOf .cpuid s) s (fun s => .next (complete { s with gprs := cpuidGprs s }))

/-! ## WRMSR -/

/-- EDX:EAX (93_implementation_defined.md G13). -/
def edxEax (s : State) : Word := (gpr .rdx s).setWidth 32 ++ (gpr .rax s).setWidth 32

/-- The processor supports the enabling bits of IA32_FEATURE_CONTROL that the value sets (43_base_instructions.md R213
lines 2 and 3). -/
def enablesSupported (cfg : Config) (v : Word) : Bool :=
  (!v.getLsbD 1 || (cfg.vmx && cfg.smx)) && (!v.getLsbD 2 || cfg.vmx)

/-- WRMSR to IA32_FEATURE_CONTROL (43_base_instructions.md R213). -/
def writeFeatureControl (v : Word) (s : State) : Result :=
  if s.featureControl.getLsbD 0 then raise .generalProtection s
  else if !enablesSupported s.cfg v then raise .generalProtection s
  else if v >>> 3 ≠ 0 then .refused .featureControlReserved
  else .next (complete { s with featureControl := v })

/-- WRMSR to an MSR of this spec: the capability MSRs are read-only (10_state.md R37), the others take the value, cut to
their width (R51 to R54; log 34). -/
def writeMsr (r : Msr) (v : Word) (s : State) : Result :=
  match r with
  | .featureControl => writeFeatureControl v s
  | .vmxBasic => raise .generalProtection s
  | .vmxMisc => raise .generalProtection s
  | .vmxCr0Fixed0 => raise .generalProtection s
  | .vmxCr0Fixed1 => raise .generalProtection s
  | .vmxCr4Fixed0 => raise .generalProtection s
  | .vmxCr4Fixed1 => raise .generalProtection s
  | .vmxProcbasedCtls2 => raise .generalProtection s
  | .debugctl => .next (complete { s with debugctl := v })
  | .sysenterCs => .next (complete { s with sysenterCs := v.setWidth 32 })
  | .sysenterEsp => .next (complete { s with sysenterEsp := truncW s.cfg v })
  | .sysenterEip => .next (complete { s with sysenterEip := truncW s.cfg v })
  | .perfGlobalCtrl => .next (complete { s with perfGlobalCtrl := v })
  | .pat => .next (complete { s with pat := v })
  | .efer => .next (complete { s with efer := v })
  | .other a => .next (complete { s with otherMsrs := Table.insert a.toNat v s.otherMsrs })

/-- WRMSR (43_base_instructions.md R213, R214): the address in ECX, the value in EDX:EAX, at CPL 0 (G13); #GP for an
address at which the processor has no MSR (base architecture, PRESUMED; log 34). -/
def execWrmsr (s : State) : Result :=
  privileged (triggerOf .wrmsr s) s fun s =>
    match msrAt s.cfg ((gpr .rcx s).setWidth 32) with
    | none => raise .generalProtection s
    | some r => writeMsr r (edxEax s) s

/-! ## RDMSR -/

/-- RDMSR (43_base_instructions.md R212, G13): the MSR whose address is in ECX, to EDX:EAX, zero-extended, at CPL 0; #GP
for an address at which the processor has no MSR. No row of the opcode table spells it, so it is no constructor of
`Instr`: the step runs it where its bytes stand (log 63). -/
def execRdmsr (s : State) : Result :=
  privileged (.plain .rdmsr) s fun s =>
    match msrAt s.cfg ((gpr .rcx s).setWidth 32) with
    | none => raise .generalProtection s
    | some r => .next (complete (setGpr .rdx (readMsr s r >>> 32) (setGpr .rax (low32 (readMsr s r)) s)))

/-! ## Control registers -/

/-- Write CR0 unless VMX operation fixes a bit otherwise (43_base_instructions.md R215 to R217). -/
def writeCr0 (v : Word) (s : State) : Result :=
  if cr0Allowed s v then .next (complete { s with cr0 := v }) else raise .generalProtection s

/-- Write CR4 unless VMX operation fixes a bit otherwise (43_base_instructions.md R217); VMXE cannot be set on a
processor without VMX (G13). -/
def writeCr4 (v : Word) (s : State) : Result :=
  if cr4Allowed s v && (s.cfg.vmx || !v.getLsbD 13) then .next (complete { s with cr4 := v })
  else raise .generalProtection s

/-- Write CR8: bits 63:4 are reserved (base architecture, PRESUMED; log 36). -/
def writeCr8 (v : Word) (s : State) : Result :=
  if v >>> 4 = 0 then .next (complete { s with cr8 := v }) else raise .generalProtection s

/-- Write a control register that exists (43_base_instructions.md R217; CR2, CR3 and CR8, log 36). RFLAGS stays as it
is: the spec states no effect on it and leaves flags to the base architecture, whose six arithmetic flags the family
leaves undefined here (DESIGN CHOICE, log 36). -/
def writeCr (cr : BitVec 4) (v : Word) (s : State) : Result :=
  match cr.toNat with
  | 0 => writeCr0 v s
  | 2 => .next (complete { s with cr2 := v })
  | 3 => .next (complete { s with cr3 := v })
  | 4 => writeCr4 v s
  | _ => writeCr8 v s

/-- MOV CRn, r (43_base_instructions.md R217): #UD for a number that names no control register (log 36). -/
def execMovToCr (cr : BitVec 4) (src : Reg) (s : State) : Result :=
  if (readCr s cr).isNone then raise .invalidOpcode s
  else privileged (triggerOf (.movToCr cr src) s) s (fun s => writeCr cr (crSource src s) s)

/-- MOV r, CRn (30_encoding.md R120; log 36). RFLAGS stays as it is (DESIGN CHOICE, log 36). -/
def execMovFromCr (dst : Reg) (cr : BitVec 4) (s : State) : Result :=
  match readCr s cr with
  | none => raise .invalidOpcode s
  | some v => privileged (triggerOf (.movFromCr dst cr) s) s (fun s => .next (complete (setGpr dst (truncTo (modeBits s) v) s)))

/-- CLTS (43_base_instructions.md R215): bit 3 of CR0 is TS (G3, G13). -/
def execClts (s : State) : Result := privileged (triggerOf .clts s) s (fun s => writeCr0 (clearBit 3 s.cr0) s)

/-- The value LMSW would leave in CR0: bits 3:0 from the source, PE never cleared (43_base_instructions.md R216, G13). -/
def lmswValue (cr0 src : Word) : Word := (cr0 &&& ~~~0xE#64) ||| (src &&& 0xF#64)

/-- LMSW (43_base_instructions.md R216). -/
def execLmsw (src : RmOperand) (s : State) : Result :=
  privileged (triggerOf (.lmsw src) s) s fun s =>
    match readRm s src 2 with
    | .error e => stopWith s e
    | .ok v => writeCr0 (lmswValue s.cr0 v) s

/-! ## GETSEC, HLT, MWAIT, STI -/

/-- GETSEC (43_base_instructions.md R218, 10_state.md R34): leaf 4 is SENTER, leaf 5 SEXIT (30_encoding.md R120); #UD
without SMX (log 38). -/
def execGetsec (s : State) : Result :=
  if !s.cfg.smx then raise .invalidOpcode s
  else
    basePrologue (triggerOf .getsec s) s fun s =>
      match ((gpr .rax s).setWidth 32).toNat with
      | 4 => .next (complete { s with smxOp := true })
      | 5 => .next (complete { s with smxOp := false })
      | _ => .refused .getsecLeafNotInSpec

/-- HLT (43_base_instructions.md R219). -/
def execHlt (s : State) : Result :=
  privileged (triggerOf .hlt s) s (fun s => .next (complete { s with activity := .hlt }))

/-- MWAIT (43_base_instructions.md R220, U19). -/
def execMwait (s : State) : Result :=
  basePrologue (triggerOf .mwait s) s (fun s => .next (complete { s with mwaitIdle := s.cfg.mwaitIdles }))

/-- STI may run: CPL is at most IOPL, RFLAGS bits 13:12 (base architecture, PRESUMED; log 41). -/
def stiAllowed (s : State) : Bool := decide ((cpl s).toNat ≤ (s.rflags.extractLsb' 12 2).toNat)

/-- STI (43_base_instructions.md R221, G13): sets the interrupt flag, RFLAGS bit 9; blocking begins if the flag was 0
(log 41). -/
def execSti (s : State) : Result :=
  basePrologue (triggerOf .sti s) s fun s =>
    if stiAllowed s then
      .next { complete { s with rflags := setBit 9 s.rflags } with blockingBySti := !s.rflags.getLsbD 9 }
    else raise .generalProtection s

end Sys2Proof.Machine
end

