-- ==== Sys2Proof/Machine/EnterLeave.lean ====
section
/-! DEFINITION. Entering and leaving VMX operation: VMXON and VMXOFF (40_vmx_enter_leave.md). -/

namespace Sys2Proof.Machine

/-- "VMXON fails" (40_vmx_enter_leave.md R135): the kind is a parameter; VMX operation is not entered either way. -/
def vmxonFail (s : State) : Result :=
  match s.cfg.vmxonFailKind with
  | .gp => raise .generalProtection s
  | .vmfail => vmFail s

/-- IA32_FEATURE_CONTROL enables VMXON in the present SMX state (40_vmx_enter_leave.md R134 lines 5 to 7; 10_state.md
R30 to R32). -/
def vmxonEnabled (s : State) : Bool :=
  s.featureControl.getLsbD 0 && (if s.smxOp then s.featureControl.getLsbD 1 else s.featureControl.getLsbD 2)

/-- VMXON from OUTSIDE with its pointer read (40_vmx_enter_leave.md R134 lines 11 and 12). A VMCS whose region becomes
the VMXON region keeps its launch state and its fields: 20_memory.md R95 is silent on the overlap (DESIGN CHOICE,
log 27). -/
def enterVmx (q : Word) (s : State) : Result :=
  if validPtr s.cfg q && !regionInMemory s.cfg q s.cfg.vmxonSize then .refused .regionNotMemory
  else if validPtr s.cfg q && vmxonRegionOk s q then
    vmSucceed { s with vmxMode := .root, vmxonPtr := q, currentVmcs := none }
  else vmFail s

/-- VMXON from OUTSIDE (40_vmx_enter_leave.md R134 lines 4 to 12). -/
def vmxonOutside (m : MemOperand) (s : State) : Result :=
  if cpl s ≠ 0 then raise .generalProtection s
  else if !vmxonEnabled s then raise .generalProtection s
  else if !cr0Ok s.cfg s.cr0 || !cr4Ok s.cfg s.cr4 then vmxonFail s
  else if s.a20m then vmxonFail s
  else
    match readMem s m 8 with
    | .error e => stopWith s e
    | .ok q => enterVmx q s

/-- VMXON (40_vmx_enter_leave.md R130 to R138). -/
def execVmxon (m : MemOperand) (s : State) : Result :=
  if !s.cr4.getLsbD 13 || !modeOk s then raise .invalidOpcode s
  else
    match s.vmxMode with
    | .nonRoot => if exits s (triggerOf (.vmxon m) s) then vmExit (triggerOf (.vmxon m) s) s
      else .refused .nonRootNotExiting
    | .root => if cpl s ≠ 0 then raise .generalProtection s else vmFail s
    | .outside => vmxonOutside m s

/-- VMXOFF (40_vmx_enter_leave.md R140 to R143). The current and the active VMCSs stay, and those that are active are
undefined until the next VMCLEAR (R142, D10; log 28). The bytes of the VMXON region, whose contents the spec does not
describe (10_state.md R66), read afterwards as before VMXON: the model's choice (DESIGN CHOICE, log 27). -/
def execVmxoff (s : State) : Result :=
  vmxPrologue (triggerOf .vmxoff s) s fun s =>
    vmSucceed { s with vmxMode := .outside, vmcss := forgetActive (s.draws + 1) s.active s.vmcss }

end Sys2Proof.Machine
end

