-- ==== Sys2Proof/Machine/Maintenance.lean ====
section
/-! DEFINITION. VMCS maintenance: VMPTRLD, VMPTRST, VMCLEAR, VMREAD, VMWRITE (41_vmcs_maintenance.md). -/

namespace Sys2Proof.Machine

/-- `p` is a pointer that VMPTRLD and VMCLEAR take, but its region is not in memory (20_memory.md R80, R94; log 62). -/
def offMemory (s : State) (p : Word) : Bool :=
  validPtr s.cfg p && decide (p ≠ s.vmxonPtr) && !regionInMemory s.cfg p (vmcsSize s.cfg)

/-- The region at `p` can be made current (41_vmcs_maintenance.md R153 lines 3 to 6). -/
def loadable (s : State) (p : Word) : Bool :=
  validPtr s.cfg p && decide (p ≠ s.vmxonPtr) && decide (headerRevision s.mem p = vmcsRevision s.cfg)
    && (!headerShadow s.mem p || s.cfg.shadowVmcs)

/-- VMPTRLD (41_vmcs_maintenance.md R151 to R154). -/
def execVmptrld (m : MemOperand) (s : State) : Result :=
  vmxPrologue (triggerOf (.vmptrld m) s) s fun s =>
    match readMem s m 8 with
    | .error e => stopWith s e
    | .ok p =>
      if offMemory s p then .refused .regionNotMemory
      else if loadable s p then vmSucceed { s with active := activate p s.active, currentVmcs := some p } else vmFail s

/-- What VMPTRST stores: the current-VMCS pointer, or all ones (41_vmcs_maintenance.md R155). -/
def currentPtrValue (s : State) : Word := s.currentVmcs.getD 0xFFFFFFFFFFFFFFFF#64

/-- VMPTRST (41_vmcs_maintenance.md R155, R156): 8 bytes whatever W is (D25). -/
def execVmptrst (m : MemOperand) (s : State) : Result :=
  vmxPrologue (triggerOf (.vmptrst m) s) s fun s =>
    match writeMem s m 8 (currentPtrValue s) with
    | .error e => stopWith s e
    | .ok t => vmSucceed t

/-- The VMCS at `p` after VMCLEAR: launch state clear, data kept, what was undefined undefined still
(41_vmcs_maintenance.md R158, R159; log 24). -/
def clearedVmcs (s : State) (p : Word) : Vmcs :=
  { vmcsAt s p with
    launch := .clear
    epoch := s.draws + 1 }

/-- The effect of VMCLEAR on the VMCS at `p` (41_vmcs_maintenance.md R158, R160 lines 4 to 7). -/
def clearVmcs (p : Word) (s : State) : State :=
  { s with
    mem := storeBytes s.cfg (imageBytes s.cfg s.draws p) s.mem
    vmcss := Table.insert p.toNat (clearedVmcs s p) s.vmcss
    active := deactivate p s.active
    currentVmcs := if s.currentVmcs = some p then none else s.currentVmcs }

/-- VMCLEAR (41_vmcs_maintenance.md R157 to R161). -/
def execVmclear (m : MemOperand) (s : State) : Result :=
  vmxPrologue (triggerOf (.vmclear m) s) s fun s =>
    match readMem s m 8 with
    | .error e => stopWith s e
    | .ok p =>
      if offMemory s p then .refused .regionNotMemory
      else if validPtr s.cfg p && decide (p ≠ s.vmxonPtr) then vmSucceed (clearVmcs p s)
      else vmFail s

/-- VMREAD (41_vmcs_maintenance.md R162 to R166). -/
def execVmread (dst : RmOperand) (field : Reg) (s : State) : Result :=
  vmxPrologue (triggerOf (.vmread dst field) s) s fun s =>
    match s.currentVmcs, selectField s field with
    | none, _ => vmFail s
    | some _, none => vmFail s
    | some p, some f =>
      match writeRm s dst (operandBytes s) (readAccess s p f) with
      | .error e => stopWith s e
      | .ok t => vmSucceed t

/-- VMWRITE (41_vmcs_maintenance.md R167 to R171). -/
def execVmwrite (field : Reg) (src : RmOperand) (s : State) : Result :=
  vmxPrologue (triggerOf (.vmwrite field src) s) s fun s =>
    match s.currentVmcs, selectField s field with
    | none, _ => vmFail s
    | some _, none => vmFail s
    | some p, some f =>
      if isExitInfo f.field && !s.cfg.exitInfoWritable then vmFail s
      else
        match readRm s src (operandBytes s) with
        | .error e => stopWith s e
        | .ok x => vmSucceed (putVmcs p (setField s.cfg f.field (writeAccess s p f x) (vmcsAt s p)) s)

end Sys2Proof.Machine
end

