-- ==== Sys2Proof/Machine/Transitions.lean ====
section
/-! DEFINITION. VMLAUNCH, VMRESUME and VMCALL (42_vm_entry_exit.md). -/

namespace Sys2Proof.Machine

/-- VM entry with the current VMCS, which must have the launch state the instruction requires
(42_vm_entry_exit.md R182, R186 lines 2 to 7). -/
def enterWith (needed : LaunchState) (isLaunch : Bool) (s : State) : Result :=
  match s.currentVmcs with
  | none => vmFail s
  | some p =>
    if headerShadow s.mem p then vmFail s
    else if (vmcsAt s p).launch = .undefined then .refused .undefinedLaunchState
    else if (vmcsAt s p).launch ≠ needed then vmFail s
    else vmEntry p isLaunch s

/-- VMLAUNCH (42_vm_entry_exit.md R180 to R184). -/
def execVmlaunch (s : State) : Result := vmxPrologue (triggerOf .vmlaunch s) s (enterWith .clear true)

/-- VMRESUME (42_vm_entry_exit.md R185 to R187). -/
def execVmresume (s : State) : Result := vmxPrologue (triggerOf .vmresume s) s (enterWith .launched false)

/-- VMCALL (42_vm_entry_exit.md R194): a VM exit at any CPL in NONROOT; in ROOT no behaviour is known (log 31). -/
def execVmcall (s : State) : Result :=
  if !inVmx s || !modeOk s then raise .invalidOpcode s
  else if s.vmxMode = .nonRoot then vmExit (triggerOf .vmcall s) s
  else if cpl s ≠ 0 then raise .generalProtection s
  else .refused .vmcallInRoot

end Sys2Proof.Machine
end

