-- ==== Sys2Proof/Machine/Dispatch.lean ====
section
/-! DEFINITION. The meaning of each instruction of spec/opcode_table.json. -/

namespace Sys2Proof.Machine

/-- One instruction (70_reset_and_hazards.md R299). -/
def exec (i : Instr) (s : State) : Host.Outcome State Fault Refusal :=
  match i with
  | .vmcall => Sys2Proof.Machine.execVmcall s
  | .vmlaunch => Sys2Proof.Machine.execVmlaunch s
  | .vmresume => Sys2Proof.Machine.execVmresume s
  | .vmxoff => Sys2Proof.Machine.execVmxoff s
  | .vmptrld m => Sys2Proof.Machine.execVmptrld m s
  | .vmclear m => Sys2Proof.Machine.execVmclear m s
  | .vmxon m => Sys2Proof.Machine.execVmxon m s
  | .vmptrst m => Sys2Proof.Machine.execVmptrst m s
  | .vmread dst field => Sys2Proof.Machine.execVmread dst field s
  | .vmwrite field src => Sys2Proof.Machine.execVmwrite field src s
  | .cpuid => Sys2Proof.Machine.execCpuid s
  | .wrmsr => Sys2Proof.Machine.execWrmsr s
  | .movToCr cr src => Sys2Proof.Machine.execMovToCr cr src s
  | .movFromCr dst cr => Sys2Proof.Machine.execMovFromCr dst cr s
  | .clts => Sys2Proof.Machine.execClts s
  | .lmsw src => Sys2Proof.Machine.execLmsw src s
  | .getsec => Sys2Proof.Machine.execGetsec s
  | .hlt => Sys2Proof.Machine.execHlt s
  | .mwait => Sys2Proof.Machine.execMwait s
  | .sti => Sys2Proof.Machine.execSti s

end Sys2Proof.Machine
end

