-- ==== Sys2Proof/Machine/Events.lean ====
section
/-! DEFINITION. What happens between instructions: the events of 60_exceptions.md R237, R241 to R245, resets
(70_reset_and_hazards.md R270 to R279), and the hand-over of a raised exception. -/

namespace Sys2Proof.Machine

/-- A VM exit in NONROOT if the cause is in `EXITING`, else what `other` says (42_vm_entry_exit.md R195, R201). -/
def exitOr (c : ExitCause) (s : State) (other : Result) : Result :=
  if s.vmxMode = .nonRoot && exits s (.plain c) then vmExit (.plain c) s else other

/-- INIT: a VM exit in NONROOT, blocked and pending in ROOT, outside VMX operation not in the source (60_exceptions.md
R242, D18). Several INITs while one is pending are one: D18 does not say how many stay (DESIGN CHOICE, log 43). -/
def takeInit (s : State) : Result :=
  match s.vmxMode with
  | .nonRoot => vmExit (.plain .init) { s with initPending := false }
  | .root => .next { s with initPending := true }
  | .outside => .refused .initOutsideVmx

/-- A SIPI: a VM exit in NONROOT if it is in `EXITING`, in any activity state (60_exceptions.md R256). Else it ends the
wait of a processor in the wait-for-SIPI state, where that starts being open, and what it does in any other state is not
in the source (R244; log 45). -/
def takeSipi (s : State) : Result :=
  exitOr .sipi s
    (if s.activity = .waitForSipi then
      .next { s with
        activity := .active
        rip := truncW s.cfg (Config.sipiRip s.draws)
        segs := { s.segs with
          cs := { s.segs.cs with
            selector := Config.sipiCsSelector s.draws
            base := (Config.sipiCsBase s.draws).setWidth 64 } } }
    else .refused .sipiNotWaiting)

/-- An event that wakes a processor inactive by HLT or MWAIT (43_base_instructions.md R219; 60_exceptions.md R268;
log 39). -/
def wake (s : State) : State :=
  { s with
    activity := if s.activity = .hlt then .active else s.activity
    mwaitIdle := false }

/-- The images a reset leaves of the VMCSs that were active (70_reset_and_hazards.md R272; log 47). -/
def resetImages (cfg : Config) (draw : Nat) : List Word → Memory → Memory
  | [], m => m
  | p :: t, m => resetImages cfg draw t (storeBytes cfg (imageBytes cfg draw p) m)

/-- A reset: the processor as State.reset has it, the constants, the memory and the inactive VMCSs kept
(70_reset_and_hazards.md R270 to R279; log 47). -/
def resetTo (fc : Word) (s : State) : State :=
  { State.reset with
    cfg := s.cfg
    featureControl := fc
    mem := resetImages s.cfg s.draws s.active s.mem
    vmcss := forgetActive (s.draws + 1) s.active s.vmcss
    schedule := s.schedule
    entryVerdicts := s.entryVerdicts
    draws := s.draws }

/-- IA32_FEATURE_CONTROL after a reset that is not a power-up reset: a locked MSR keeps its value unless the parameter
says otherwise (70_reset_and_hazards.md R271, 90_conflicts.md C5). -/
def warmFeatureControl (s : State) : Word :=
  if s.featureControl.getLsbD 0 && !s.cfg.warmResetClearsFc then s.featureControl else 0

/-- An event at an instruction boundary (60_exceptions.md R237, R241 to R245). -/
def takeEvent (e : Event) (s : State) : Result :=
  match e with
  | .init => takeInit s
  | .a20m enter => .next (if inVmx s then s else { s with a20m := enter })
  | .sipi => takeSipi s
  | .wake => .next (wake s)
  | .tripleFault => exitOr .tripleFault s (.next { s with activity := .shutdown })
  | .powerUpReset => .next (resetTo 0 s)
  | .warmReset => .next (resetTo (warmFeatureControl s) s)
  | .other n => exitOr (.other n) s (.refused .eventNotInSpec)

/-- A raised exception: a VM exit in NONROOT if the controls say so, else the base architecture's delivery, which is not
in the source (60_exceptions.md R232, R240, D19; log 8). -/
def handOver (e : Exception) (s : State) : Result := exitOr (.exception e) s (.refused (.exceptionDelivery e))

end Sys2Proof.Machine
end

