-- ==== Sys2Proof/Machine/Fetch.lean ====
section
/-! DEFINITION. Fetching the next instruction (30_encoding.md R118; 20_memory.md R105, D29; 10_state.md R41; log 61). -/

namespace Sys2Proof.Machine

/-- The linear address of the next instruction: RIP in 64-bit mode, else CS.base + EIP. -/
def fetchAddr (s : State) : Word := wrapMode s (segBase s .cs + s.rip)

/-- Up to `n` bytes from a linear address on, and what stopped the fetch before `n`, if something did. -/
def fetchBytes (s : State) : Nat → Word → List Byte × Option Stop
  | 0, _ => ([], none)
  | n + 1, lin =>
    match translate s .execute lin with
    | .error e => ([], some e)
    | .ok a => (loadByte s a :: (fetchBytes s n (wrapMode s (lin + 1))).1, (fetchBytes s n (wrapMode s (lin + 1))).2)

/-- The code that the code segment makes of bytes: 64-bit code in 64-bit mode, else by bit 14 of the access rights of CS
(10_state.md R47; log 13). -/
def codeSize (s : State) : CodeSize :=
  if mode64 s then .code64 else if s.segs.cs.access.getLsbD 14 then .code32 else .code16

/-- What the fetch finds: an instruction of the opcode table, or RDMSR (log 63). -/
inductive Fetched
  | instr (i : Instr)
  | rdmsr
  deriving DecidableEq, Repr

/-- What fetched bytes begin with, and its length. -/
def decodeFetched (s : State) (f : List Byte × Option Stop) : Except Stop (Fetched × Nat) :=
  match decode (codeSize s) f.1 with
  | .ok (i, rest) => .ok (.instr i, f.1.length - rest.length)
  | .error .truncated => .error (f.2.getD (.refuse (.undecodable .tooLong)))
  | .error e =>
    match decodeRdmsr (codeSize s) f.1 with
    | some rest => .ok (.rdmsr, f.1.length - rest.length)
    | none => .error (.refuse (.undecodable e))

/-- The next instruction and its length. -/
def fetch (s : State) : Except Stop (Fetched × Nat) :=
  if segUsable s .cs then decodeFetched s (fetchBytes s maxLength (fetchAddr s)) else .error (.exn .unusableSegment)

/-- The state an instruction of `len` bytes runs in: the next instruction's address stands ready (10_state.md R41). -/
def withNext (len : Nat) (s : State) : State := { s with nextRip := wrapMode s (s.rip + BitVec.ofNat 64 len) }

/-- Write bytes where the fetch reads, from a linear address on. -/
def placeBytes : List Byte → Word → State → State
  | [], _, s => s
  | b :: t, lin, s =>
    match translate s .execute lin with
    | .error _ => placeBytes t (wrapMode s (lin + 1)) s
    | .ok a => placeBytes t (wrapMode s (lin + 1)) { s with mem := Memory.write a b s.mem }

/-- The state with nothing that comes before the next instruction: no event, no exception, an active processor. -/
def readyToFetch (s : State) : State :=
  { s with
    schedule := []
    raised := none
    initPending := false
    activity := .active
    mwaitIdle := false }

end Sys2Proof.Machine
end

