-- ==== Sys2Proof/Machine/Cycle.lean ====
section
/-! DEFINITION. One step: an event, the hand-over of a raised exception, or one instruction (70_reset_and_hazards.md
R299; 60_exceptions.md R246; log 42). -/

namespace Sys2Proof.Machine

/-- Fetch and run one instruction. -/
def runInstr (s : State) : Result :=
  match fetch s with
  | .error e => stopWith s e
  | .ok (.instr i, len) => exec i (withNext len s)
  | .ok (.rdmsr, len) => execRdmsr (withNext len s)

/-- The logical processor executes instructions (10_state.md R71, R72). -/
def executing (s : State) : Bool := decide (s.activity = .active) && !s.mwaitIdle

/-- No event at this boundary: a pending INIT that is no longer blocked, else an instruction; an inactive processor does
nothing (10_state.md R71; log 39). No instruction is a final one (70_reset_and_hazards.md R299 gives HLT as an instance;
DESIGN CHOICE, log 64): after HLT a run goes on with steps that change nothing. -/
def proceed (s : State) : Result :=
  if s.initPending && decide (s.vmxMode ≠ .root) then takeInit s
  else if executing s then runInstr s
  else .next s

/-- One step from a state whose free values are fresh: the exception of the last instruction first, then the event the
schedule names, then an instruction. -/
def cycle (s : State) : Result :=
  match s.raised, s.schedule with
  | some e, _ => handOver e s
  | none, some e :: t => takeEvent e { s with schedule := t }
  | none, none :: t => proceed { s with schedule := t }
  | none, [] => proceed s

/-- Fresh free values for this step. -/
def freshen (s : State) : State := { s with draws := s.draws + 1 }

end Sys2Proof.Machine
end

