-- ==== Sys2Proof/Machine/Step.lean ====
section
/-! DEFINITION. The step function, and the state whose next step runs a given instruction. -/

namespace Sys2Proof.Machine

/-- One step of the logical processor (70_reset_and_hazards.md R299). -/
def step (s : State) : Host.Outcome State Fault Refusal := cycle (freshen s)

/-- The state with an instruction's bytes where the next step fetches (log 57). -/
def State.withFetchWord (s : State) (nbits w : Nat) : State :=
  placeBytes (tableBytes nbits w) (fetchAddr (readyToFetch s)) (readyToFetch s)

end Sys2Proof.Machine
end

