-- ==== Sys2Proof/Safety.lean ====
section
/-! DEFINITION. What claims speak of: when an instruction may run, which states are legal (the invariants of 10_state.md
and 42_vm_entry_exit.md), and the state of one VMCS. -/

namespace Sys2Proof.Machine

/-! ## Instructions -/

/-- The ten VMX instructions (30_encoding.md R110). -/
def isVmx : Instr → Bool
  | .vmcall => true
  | .vmlaunch => true
  | .vmresume => true
  | .vmxoff => true
  | .vmptrld _ => true
  | .vmclear _ => true
  | .vmxon _ => true
  | .vmptrst _ => true
  | .vmread _ _ => true
  | .vmwrite _ _ => true
  | .cpuid => false
  | .wrmsr => false
  | .movToCr _ _ => false
  | .movFromCr _ _ => false
  | .clts => false
  | .lmsw _ => false
  | .getsec => false
  | .hlt => false
  | .mwait => false
  | .sti => false

/-- A VMX instruction has its own effect: VMX root operation, an operating mode for VMX, CPL 0
(41_vmcs_maintenance.md R150). -/
abbrev RootReady (s : State) : Prop := s.vmxMode = .root ∧ modeOk s = true ∧ cpl s = 0

/-- No VM exit replaces the base instruction (43_base_instructions.md R222). -/
abbrev NotExiting (i : Instr) (s : State) : Prop := s.vmxMode = .nonRoot → exits s (triggerOf i s) = false

/-- The conditions of 40_vmx_enter_leave.md R134 lines 1 to 9 for VMXON from OUTSIDE, lines 8 and 9 apart. -/
abbrev VmxonReady (s : State) : Prop :=
  s.cr4.getLsbD 13 = true ∧ modeOk s = true ∧ s.vmxMode = .outside ∧ cpl s = 0 ∧ s.featureControl.getLsbD 0 = true
    ∧ (if s.smxOp then s.featureControl.getLsbD 1 else s.featureControl.getLsbD 2) = true

/-- VMX operation admits the present CR0 and CR4, and the processor is not in A20M mode (40_vmx_enter_leave.md R134
lines 8 and 9). -/
abbrev VmxonSupported (s : State) : Prop := cr0Ok s.cfg s.cr0 = true ∧ cr4Ok s.cfg s.cr4 = true ∧ s.a20m = false

/-- RFLAGS as a successful VMX instruction leaves it (G2; log 9). -/
abbrev successFlags (s : State) : Word := if s.cfg.reportInRflags then flagsSucceed s.rflags else s.rflags

/-! ## Legal states -/

/-- Set of pointers in rising order. -/
def risingFrom : Word → List Word → Bool
  | _, [] => true
  | p, q :: t => decide (p < q) && risingFrom q t

/-- The active VMCSs are listed once each, in rising order (10_state.md R61). -/
def rising : List Word → Bool
  | [] => true
  | p :: t => risingFrom p t

/-- The values that WRMSR admits in IA32_FEATURE_CONTROL (43_base_instructions.md R213). -/
def featureControlLegal (cfg : Config) (v : Word) : Bool := enablesSupported cfg v && decide (v >>> 3 = 0)

/-- The bounds that the spec sets to the constants of a processor (00_scope.md R8, R9, R12). -/
structure ConfigLegal (cfg : Config) : Prop where
  /-- R8 -/
  paWidth : cfg.paWidth ≤ 64
  /-- R9 -/
  vmcsSize : 8 < vmcsSize cfg ∧ vmcsSize cfg ≤ 4096
  /-- R12 -/
  activityStates : Activity.active ∈ cfg.activityStates

/-- The invariants the spec gives the machine, and the canonical forms of the model's tables. -/
structure LegalState (s : State) : Prop where
  config : ConfigLegal s.cfg
  memory : Memory.wf s.mem = true
  vmcss : Table.sorted s.vmcss = true
  otherMsrs : Table.sorted s.otherMsrs = true
  active : rising s.active = true
  /-- 10_state.md R60 -/
  current : ∀ p, s.currentVmcs = some p → p ∈ s.active
  /-- 10_state.md R27, R28 -/
  fixedBits : inVmx s = true → cr0Allowed s s.cr0 = true ∧ cr4Ok s.cfg s.cr4 = true
  /-- 10_state.md R35 -/
  a20m : inVmx s = true → s.a20m = false
  /-- 42_vm_entry_exit.md R193, R198 -/
  guest : s.vmxMode = .nonRoot → ∃ p, s.currentVmcs = some p ∧ headerShadow s.mem p = false
    ∧ (vmcsAt s p).launch = .launched ∧ hostStateOk s p (vmcsAt s p) = true
  /-- 10_state.md R34 -/
  smx : s.cfg.smx = false → s.smxOp = false
  /-- 10_state.md R31 to R33 -/
  featureControl : featureControlLegal s.cfg s.featureControl = true

/-- The value has no bit from `n` on. -/
abbrev Fits (n : Nat) (v : Word) : Prop := v.toNat < 2 ^ n

/-- Every register of natural width is within it (00_scope.md R7), and the base addresses of CS, SS, DS and ES have 32
bits (10_state.md R45). -/
structure InWidths (s : State) : Prop where
  control : Fits (natWidth s.cfg) s.cr0 ∧ Fits (natWidth s.cfg) s.cr2 ∧ Fits (natWidth s.cfg) s.cr3
    ∧ Fits (natWidth s.cfg) s.cr4 ∧ Fits (natWidth s.cfg) s.cr8 ∧ Fits (natWidth s.cfg) s.dr7
  general : ∀ r, Fits (natWidth s.cfg) (gpr r s)
  pointers : Fits (natWidth s.cfg) s.rip ∧ Fits (natWidth s.cfg) s.nextRip ∧ Fits (natWidth s.cfg) s.rflags
  bases : ∀ g, Fits (natWidth s.cfg) (s.segs.get g).base
  narrowBases : Fits 32 s.segs.cs.base ∧ Fits 32 s.segs.ss.base ∧ Fits 32 s.segs.ds.base ∧ Fits 32 s.segs.es.base
  tables : Fits (natWidth s.cfg) s.gdtr.base ∧ Fits (natWidth s.cfg) s.idtr.base
  sysenter : Fits (natWidth s.cfg) s.sysenterEsp ∧ Fits (natWidth s.cfg) s.sysenterEip

/-! ## One VMCS -/

/-- The state of the VMCS `x` relative to the logical processor: active, current, launch state (10_state.md R69). -/
abbrev triple (s : State) (x : Word) : Bool × Bool × LaunchState :=
  (decide (x ∈ s.active), decide (s.currentVmcs = some x), (vmcsAt s x).launch)

/-! ## Guest and host registers -/

/-- How many bits of a register its value has: for most the width of its field; the base addresses of CS, SS, DS and ES
have 32 (10_state.md R45), the limits of GDTR and IDTR 16 (R50). -/
def regWidth (cfg : Config) : GuestReg → Nat
  | .base .cs => 32
  | .base .ss => 32
  | .base .ds => 32
  | .base .es => 32
  | .gdtrLimit => 16
  | .idtrLimit => 16
  | g => guestWidth cfg g

/-! ## Outcomes -/

/-- What VMfail leaves (60_exceptions.md R234, G2; log 9, log 10): nothing but the report, and execution goes on at the
next instruction. -/
def VmFails (s : State) (r : Result) : Prop :=
  ∃ f v, r = .next { s with rip := s.nextRip, rflags := f, vmcss := v, blockingBySti := false, failed := true }
    ∧ (s.cfg.reportInRflags = false → f = s.rflags ∧ v = s.vmcss)
    ∧ (s.cfg.reportInRflags = true → ∀ p, s.vmxMode = .root → s.currentVmcs = some p →
        f = (s.rflags &&& ~~~0x8D5#64) ||| 0x40#64
          ∧ ∃ x, v = Table.insert p.toNat (setField s.cfg .vmInstructionError x (vmcsAt s p)) s.vmcss)
    ∧ (s.cfg.reportInRflags = true → (s.vmxMode ≠ .root ∨ s.currentVmcs = none) →
        f = (s.rflags &&& ~~~0x8D5#64) ||| 0x1#64 ∧ v = s.vmcss)

/-- The state `t` holds at the addresses `as` the bytes of a value, least significant first (20_memory.md R89), but for
read-only memory of the platform, which keeps its bytes (log 62), and elsewhere what `s` holds. -/
def Stored (as : List Nat) (v : Word) (s t : State) : Prop :=
  (∀ k a, as[k]? = some a → writable s.cfg a = true → Memory.read t.mem a = BitVec.ofNat 8 (v.toNat / 256 ^ k))
    ∧ (∀ a, (a ∉ as ∨ writable s.cfg a = false) → Memory.read t.mem a = Memory.read s.mem a)

/-- An operand of `n` bytes can be stored to: its addresses are `as`, none of them the processor's. -/
abbrev Storable (s : State) (m : MemOperand) (n : Nat) (as : List Nat) : Prop :=
  segUsable s (operandSeg m) = true ∧ physAddrs s .write n (linearAddr s m) = .ok as
    ∧ ∀ a ∈ as, processorOwned s a = false

/-- No address lies in the data of a VMCS the table lists. -/
abbrev Untouched (s : State) (as : List Nat) : Prop :=
  ∀ a ∈ as, ∀ e ∈ s.vmcss, inVmcsData s.cfg (BitVec.ofNat 64 e.1) a = false

/-- What a store to the addresses `as` leaves of the VMCSs, `v` their table: undefined those whose data hold one of the
addresses, the others as they were (10_state.md R65, 20_memory.md R100; log 25). -/
structure VmcssAfterStore (as : List Nat) (s : State) (v : List (Nat × Vmcs)) : Prop where
  untouched : Untouched s as → v = s.vmcss
  kept : ∀ q, (∀ a ∈ as, writable s.cfg a = true → inVmcsData s.cfg q a = false) →
    vmcsAt { s with vmcss := v } q = vmcsAt s q
  undefined : ∀ q, (∃ a ∈ as, writable s.cfg a = true ∧ inVmcsData s.cfg q a = true) →
    (vmcsAt { s with vmcss := v } q).launch = .undefined ∧ (vmcsAt { s with vmcss := v } q).data = []

/-- The operand size of VMREAD and VMWRITE in bits (30_encoding.md R123; 41_vmcs_maintenance.md R163 line 7; log 52). -/
abbrev operandBits (s : State) : Nat :=
  if s.cfg.operandByMode then (if mode64 s then 64 else 32) else if s.cfg.intel64 then 64 else 32

/-- The instruction stores, VMPTRST eight bytes and VMREAD the operand size, and `as` are the addresses. -/
def StoresTo (i : Instr) (s : State) (as : List Nat) : Prop :=
  ∃ m n, ((i = .vmptrst m ∧ n = 8) ∨ ∃ r, i = .vmread (.mem m) r ∧ n = operandBytes s)
    ∧ physAddrs s .write n (linearAddr s m) = .ok as

/-- An access of `n` bytes to the operand `m` raises the exception `x`: the segment is unusable, or `Translate` faults
(10_state.md R48; 20_memory.md R96). -/
abbrev OperandRaises (s : State) (m : MemOperand) (acc : Access) (n : Nat) (x : Exception) : Prop :=
  (segUsable s (operandSeg m) = false ∧ x = .unusableSegment)
    ∨ (segUsable s (operandSeg m) = true ∧ physAddrs s acc n (linearAddr s m) = .error (.exn .operandAccess)
      ∧ x = .operandAccess)

/-- What a VM exit saves of a register in a field of the guest-state area (42_vm_entry_exit.md R197; reserved bits of
access rights zero, G12). -/
def savedVal (s : State) (c : Trigger) (g : GuestReg) : Word :=
  match g with
  | .rip => exitRip s c
  | .access r => ((s.segs.get r).access &&& accessMask r).setWidth 64
  | g => regVal s g

/-- The VM-exit information fields of the VMCS at `p` hold what the record says in the state `s`, with the operands at
hand, each cut to its width; 0 for a term without a value (42_vm_entry_exit.md R199; log 19). -/
def Recorded (o : OperandVals) (p : Word) (r : ExitRecord) (s t : State) : Prop :=
  fieldVal s.cfg p (vmcsAt t p) .exitReason = truncTo 32 ((evalTerm s o r.reason).getD 0)
    ∧ fieldVal s.cfg p (vmcsAt t p) .exitQualification
      = truncTo (natWidth s.cfg) ((evalTerm s o r.qualification).getD 0)
    ∧ fieldVal s.cfg p (vmcsAt t p) .interruptionInfo = truncTo 32 ((evalTerm s o r.interruption).getD 0)

/-- The effect of a VM exit with cause `c`, current VMCS `p` and record of the cause (42_vm_entry_exit.md
R196 to R200). -/
structure Exited (c : Trigger) (p : Word) (r : ExitRecord) (s t : State) : Prop where
  mode : t.vmxMode = .root
  /-- R197 -/
  saved : ∀ g, savesOnExit s.cfg p (vmcsAt s p) g = true →
    truncTo (regWidth s.cfg g) (fieldVal s.cfg p (vmcsAt t p) (.guest g)) = truncTo (regWidth s.cfg g) (savedVal s c g)
  notSaved : ∀ f, f ≠ .exitReason → f ≠ .exitQualification → f ≠ .interruptionInfo →
    (∀ g, f = .guest g → savesOnExit s.cfg p (vmcsAt s p) g = false) →
    fieldVal s.cfg p (vmcsAt t p) f = fieldVal s.cfg p (vmcsAt s p) f
  /-- R199 -/
  recorded : Recorded c.operands p r s t
  /-- R198 -/
  loaded : ∀ h, loadsOnExit s.cfg p (vmcsAt t p) h = true → h ≠ .access .ss →
    regVal t h = truncTo (regWidth s.cfg h) (fieldVal s.cfg p (vmcsAt s p) (.host h))
  notLoaded : ∀ h, loadsOnExit s.cfg p (vmcsAt t p) h = false → h ≠ .access .ss → h ≠ .activity → h ≠ .interruptibility →
    h ≠ .base .cs → h ≠ .limit .cs → h ≠ .access .cs → regVal t h = regVal s h
  /-- 20_memory.md R105 -/
  code : (loadsOnExit s.cfg p (vmcsAt t p) (.base .cs) = false → t.segs.cs.base = low32 s.cfg.hostCsBase)
    ∧ (loadsOnExit s.cfg p (vmcsAt t p) (.limit .cs) = false → t.segs.cs.limit = s.cfg.hostCsLimit)
    ∧ (loadsOnExit s.cfg p (vmcsAt t p) (.access .cs) = false → ∀ pre conds a post,
      s.cfg.hostCsAccess = pre ++ (conds, a) :: post →
      (∀ x ∈ pre, ∃ c ∈ x.1, ctlHolds s.cfg p (vmcsAt t p) c = false) →
      (∀ c ∈ conds, ctlHolds s.cfg p (vmcsAt t p) c = true) → t.segs.cs.access = a)
  privilege : cpl t = 0
  runs : t.activity = .active ∧ t.mwaitIdle = false ∧ t.blockingBySti = false
  /-- R200 -/
  launch : (vmcsAt t p).launch = (vmcsAt s p).launch
  others : ∀ q, q ≠ p → vmcsAt t q = vmcsAt s q
  general : ∀ r, r ≠ .rsp → gpr r t = gpr r s
  pointers : t.currentVmcs = s.currentVmcs ∧ t.active = s.active ∧ t.vmxonPtr = s.vmxonPtr
  rest : t.featureControl = s.featureControl ∧ t.smxOp = s.smxOp ∧ t.a20m = s.a20m ∧ t.cr2 = s.cr2 ∧ t.cr8 = s.cr8
    ∧ t.otherMsrs = s.otherMsrs ∧ t.mem = s.mem ∧ t.cfg = s.cfg

/-- The effect of a VM entry whose checks fail late, with current VMCS `p` and record `r` (42_vm_entry_exit.md R189, D13,
G9; log 22): the cause recorded, control at the host-state area, the launch state and the guest-state area as they
were. -/
structure FailedLate (p : Word) (r : ExitRecord) (s t : State) : Prop where
  mode : t.vmxMode = .root
  rip : t.rip = truncTo (natWidth s.cfg) (fieldVal s.cfg p (vmcsAt s p) (.host .rip))
  recorded : Recorded noOperands p r s t
  launch : (vmcsAt t p).launch = (vmcsAt s p).launch
  guest : ∀ g, fieldVal s.cfg p (vmcsAt t p) (.guest g) = fieldVal s.cfg p (vmcsAt s p) (.guest g)
  others : ∀ q, q ≠ p → vmcsAt t q = vmcsAt s q
  rest : t.currentVmcs = some p ∧ t.active = s.active ∧ t.mem = s.mem ∧ t.cfg = s.cfg

/-- The effect of a successful VM entry with current VMCS `p` (42_vm_entry_exit.md R190, R192). -/
structure Entered (p : Word) (s t : State) : Prop where
  mode : t.vmxMode = .nonRoot
  loaded : ∀ g, loadsOnEntry s.cfg p (vmcsAt s p) g = true →
    regVal t g = truncTo (regWidth s.cfg g) (fieldVal s.cfg p (vmcsAt s p) (.guest g))
  notLoaded : ∀ g, loadsOnEntry s.cfg p (vmcsAt s p) g = false → regVal t g = regVal s g
  launch : (vmcsAt t p).launch = .launched
  data : ∀ q f, fieldVal s.cfg q (vmcsAt t q) f = fieldVal s.cfg q (vmcsAt s q) f
  others : ∀ q, q ≠ p → vmcsAt t q = vmcsAt s q
  /-- R192 -/
  active : ∀ q, q ∈ t.active ↔ q ∈ s.active
    ∨ (vmcsShadowing s.cfg p (vmcsAt s p) = true ∧ q = fieldVal s.cfg p (vmcsAt s p) .linkPointer)
  general : ∀ r, r ≠ .rsp → gpr r t = gpr r s
  pointers : t.currentVmcs = s.currentVmcs ∧ t.vmxonPtr = s.vmxonPtr
  rest : t.featureControl = s.featureControl ∧ t.smxOp = s.smxOp ∧ t.a20m = s.a20m ∧ t.cr2 = s.cr2 ∧ t.cr8 = s.cr8
    ∧ t.otherMsrs = s.otherMsrs ∧ t.mem = s.mem ∧ t.cfg = s.cfg

/-- "Unrestricted guest" is in force for the current VMCS (10_state.md R28). -/
def guestUnrestricted (s : State) : Bool :=
  match s.currentVmcs with
  | none => false
  | some p => unrestrictedGuest s.cfg p (vmcsAt s p)

/-- `P_CR0_OK'` of 43_base_instructions.md R217: any value outside VMX operation; in it a supported one, where PE and PG
count as 1 for an unrestricted guest (10_state.md R27, R28). -/
def Cr0Admitted (s : State) (v : Word) : Prop :=
  s.vmxMode = .outside ∨ (s.vmxMode = .root ∧ cr0Ok s.cfg v = true)
    ∨ (s.vmxMode = .nonRoot ∧ guestUnrestricted s = false ∧ cr0Ok s.cfg v = true)
    ∨ (s.vmxMode = .nonRoot ∧ guestUnrestricted s = true ∧ cr0Ok s.cfg (v ||| 0x80000001#64) = true)

/-- A result with the VMX mode of its state replaced. -/
def inMode (m : VmxMode) : Result → Result
  | .next t => .next { t with vmxMode := m }
  | .fault f => .fault f
  | .refused r => .refused r

/-- What an instruction checks before a VM exit can replace it: the conditions of its #UD (92_eei_decisions.md D19). -/
def exitReached (i : Instr) (s : State) : Bool :=
  match i with
  | .vmxon _ => s.cr4.getLsbD 13 && modeOk s
  | .vmcall => modeOk s
  | .vmlaunch => modeOk s
  | .vmresume => modeOk s
  | .vmxoff => modeOk s
  | .vmptrld _ => modeOk s
  | .vmclear _ => modeOk s
  | .vmptrst _ => modeOk s
  | .vmread _ _ => modeOk s
  | .vmwrite _ _ => modeOk s
  | .movToCr cr _ => (readCr s cr).isSome
  | .movFromCr _ cr => (readCr s cr).isSome
  | .getsec => s.cfg.smx
  | .cpuid => true
  | .wrmsr => true
  | .clts => true
  | .lmsw _ => true
  | .hlt => true
  | .mwait => true
  | .sti => true

/-! ## Encodings by the size of the code -/

/-- The memory operand can be spelled in code of this size: its form has the address size that the code and the `67H`
prefix select, and REX bits only in 64-bit code (log 13). -/
def MemOperand.spelledIn (c : CodeSize) (m : MemOperand) : Bool :=
  decide (m.form.is16 = c.addr16 m.addrPrefix) && (c.hasRex || (!m.form.rexX && !m.form.rexB))

/-- The register can be named in code of this size. -/
def Reg.spelledIn (c : CodeSize) (r : Reg) : Bool := c.hasRex || !r.hi

/-- A register or memory operand that can be spelled in code of this size. -/
def RmOperand.spelledIn (c : CodeSize) : RmOperand → Bool
  | .reg r => Reg.spelledIn c r
  | .mem m => MemOperand.spelledIn c m

/-- An instruction that can be spelled in code of this size (30_encoding.md R118, R119). -/
def spelledIn (c : CodeSize) : Instr → Bool
  | .vmptrld m => MemOperand.spelledIn c m
  | .vmclear m => MemOperand.spelledIn c m
  | .vmxon m => MemOperand.spelledIn c m
  | .vmptrst m => MemOperand.spelledIn c m
  | .vmread dst field => RmOperand.spelledIn c dst && Reg.spelledIn c field
  | .vmwrite field src => RmOperand.spelledIn c src && Reg.spelledIn c field
  | .movToCr cr src => (c.hasRex || !cr.getLsbD 3) && Reg.spelledIn c src
  | .movFromCr dst cr => (c.hasRex || !cr.getLsbD 3) && Reg.spelledIn c dst
  | .lmsw src => RmOperand.spelledIn c src
  | .vmcall => true
  | .vmlaunch => true
  | .vmresume => true
  | .vmxoff => true
  | .cpuid => true
  | .wrmsr => true
  | .clts => true
  | .getsec => true
  | .hlt => true
  | .mwait => true
  | .sti => true

end Sys2Proof.Machine
end

