-- ==== Sys2Proof/Certificates/Slice0/Obligations.lean ====
section
/-! DEFINITION. The statements for the provers. Files and rules are those of spec/; "log n" is notes/assumptions/n.md. -/

open Sys2Proof Sys2Proof.Machine

/-! ## Encoding -/

/-- 30_encoding.md R118 to R120 (general knowledge; log 12): in 64-bit mode no bit of an encoding is dropped. -/
def Obligations.DecodeOfEncode : Prop :=
  ∀ (i : Instr) (rest : List Byte), i.wf = true → spelledIn .code64 i = true →
    decode .code64 (encode i ++ rest) = .ok (i, rest)

/-- The same in 16-bit and in 32-bit code, with 16-bit and with 32-bit addresses, for what can be spelled there
(log 12, log 13). -/
def Obligations.DecodeOfEncodeLegacy : Prop :=
  ∀ (c : CodeSize) (i : Instr) (rest : List Byte), c ≠ .code64 → i.wf = true → spelledIn c i = true →
    decode c (encode i ++ rest) = .ok (i, rest)

/-- Whatever the bytes, a decoded instruction is one that an encoding can spell in code of that size, and it took at
least one byte from the front (log 12, log 13). -/
def Obligations.DecodedIsWellFormed : Prop :=
  ∀ (c : CodeSize) (bs : List Byte) (i : Instr) (rest : List Byte), decode c bs = .ok (i, rest) →
    i.wf = true ∧ spelledIn c i = true ∧ ∃ front, front ≠ [] ∧ bs = front ++ rest

/-- Words written out from 30_encoding.md R120 and from the programs of 95_test_vectors.md (general knowledge). -/
def Obligations.DecodeWords : Prop :=
  decode .code64 [0x0F#8, 0x01#8, 0xC1#8] = .ok (.vmcall, [])
    ∧ decode .code64 [0x0F#8, 0x01#8, 0xC4#8] = .ok (.vmxoff, [])
    ∧ decode .code64 [0xF3#8, 0x0F#8, 0xC7#8, 0x30#8] = .ok (.vmxon ⟨none, false, .base .rax .none⟩, [])
    ∧ decode .code64 [0x66#8, 0x0F#8, 0xC7#8, 0x33#8] = .ok (.vmclear ⟨none, false, .base .rbx .none⟩, [])
    ∧ decode .code64 [0x0F#8, 0x78#8, 0xC8#8] = .ok (.vmread (.reg .rax) .rcx, [])
    ∧ decode .code64 [0x0F#8, 0x22#8, 0xE0#8] = .ok (.movToCr 4 .rax, [])
    ∧ decode .code64 [0x0F#8, 0x30#8] = .ok (.wrmsr, [])
    ∧ decode .code64 [0xF4#8] = .ok (.hlt, [])

/-- 30_encoding.md R121 (general knowledge): the register forms of `0F C7` are no instruction of this spec. -/
def Obligations.PointerRegisterForms : Prop :=
  ∀ (c : CodeSize) (mb : Byte) (rest : List Byte), modOf mb = 3#2 →
    decode c (0x0F#8 :: 0xC7#8 :: mb :: rest) = .error (.unknownExtension 0xC7#8 mb)
      ∧ decode c (0x66#8 :: 0x0F#8 :: 0xC7#8 :: mb :: rest) = .error (.unknownExtension 0xC7#8 mb)
      ∧ decode c (0xF3#8 :: 0x0F#8 :: 0xC7#8 :: mb :: rest) = .error (.unknownExtension 0xC7#8 mb)

/-! ## The step -/

/-- 70_reset_and_hazards.md R299, 10_state.md R41: with no event and no exception pending, an executing processor
whose bytes at RIP decode to `i` steps as exec does with `i`, the address of the next instruction standing ready.
The model's choices: log 5, log 13, log 42, log 61. -/
def Obligations.StepRunsDecoded : Prop :=
  ∀ (s : State) (i : Instr) (rest : List Byte),
    s.raised = none → s.schedule = [] → s.initPending = false → s.activity = .active → s.mwaitIdle = false →
    segUsable s .cs = true →
    decode (codeSize s) (fetchBytes (freshen s) maxLength (fetchAddr s)).1 = .ok (i, rest) →
    step s = exec i { s with
      draws := s.draws + 1
      nextRip := wrapMode s
        (s.rip + BitVec.ofNat 64 ((fetchBytes (freshen s) maxLength (fetchAddr s)).1.length - rest.length)) }

/-- The same from the encoding: where the fetched bytes begin with the encoding of `i`, in 64-bit mode, `i` runs and
the next instruction's address is RIP plus the length of the encoding. The model's choices: log 5, log 42, log 61. -/
def Obligations.StepRunsEncoded : Prop :=
  ∀ (s : State) (i : Instr) (rest : List Byte),
    s.raised = none → s.schedule = [] → s.initPending = false → s.activity = .active → s.mwaitIdle = false →
    mode64 s = true → i.wf = true → spelledIn .code64 i = true →
    (fetchBytes (freshen s) maxLength (fetchAddr s)).1 = encode i ++ rest →
    step s = exec i { s with
      draws := s.draws + 1
      nextRip := s.rip + BitVec.ofNat 64 (encode i).length }

/-- 10_state.md R71, R72: an inactive processor executes nothing. -/
def Obligations.InactiveExecutesNothing : Prop :=
  ∀ s : State, s.raised = none → s.schedule = [] → s.initPending = false →
    (s.activity ≠ .active ∨ s.mwaitIdle = true) → step s = .next { s with draws := s.draws + 1 }

/-! ## Reset -/

/-- 70_reset_and_hazards.md R270 to R277: the values the spec gives. The model's choices: that TR's null selector is the
value 0, of the family (PRESUMED: 10_state.md R44 and N27 give none; log 2), and what unwritten memory reads (log 4). -/
def Obligations.ResetValues : Prop :=
  State.reset.vmxMode = .outside ∧ State.reset.featureControl = 0 ∧ State.reset.currentVmcs = none
    ∧ State.reset.active = [] ∧ State.reset.smxOp = false ∧ State.reset.a20m = false
    ∧ State.reset.activity = .active ∧ State.reset.blockingBySti = false ∧ State.reset.cr4.getLsbD 13 = false
    ∧ State.reset.segs.tr.selector = 0 ∧ State.reset.segs.tr.access.getLsbD 16 = false
    ∧ (∀ p, (vmcsAt State.reset p).launch = .undefined) ∧ ∀ a, Memory.read State.reset.mem a = 0

/-- 70_reset_and_hazards.md R270 to R278, 60_exceptions.md R241: a reset from any state. A power-up reset clears
IA32_FEATURE_CONTROL, another reset keeps a locked value unless the parameter says otherwise. The model's choices:
that TR's null selector is the value 0 (PRESUMED, log 2), log 47. -/
def Obligations.ResetEvents : Prop :=
  ∀ (s : State) (rest : List (Option Event)), s.raised = none →
    (s.schedule = some .powerUpReset :: rest → ∃ t, step s = .next t ∧ t.featureControl = 0 ∧ t.vmxMode = .outside
      ∧ t.currentVmcs = none ∧ t.active = [] ∧ t.smxOp = false ∧ t.a20m = false ∧ t.activity = .active
      ∧ t.blockingBySti = false ∧ t.cr4.getLsbD 13 = false ∧ t.segs.tr.selector = 0
      ∧ t.segs.tr.access.getLsbD 16 = false ∧ t.cfg = s.cfg ∧ ∀ p ∈ s.active, (vmcsAt t p).launch = .undefined)
    ∧ (s.schedule = some .warmReset :: rest → ∃ t, step s = .next t ∧ t.vmxMode = .outside
      ∧ t.currentVmcs = none ∧ t.active = [] ∧ t.smxOp = false ∧ t.a20m = false ∧ t.activity = .active
      ∧ t.blockingBySti = false ∧ t.cr4.getLsbD 13 = false ∧ t.segs.tr.selector = 0
      ∧ t.segs.tr.access.getLsbD 16 = false ∧ t.cfg = s.cfg ∧ (∀ p ∈ s.active, (vmcsAt t p).launch = .undefined)
      ∧ t.featureControl
        = if s.featureControl.getLsbD 0 = true ∧ s.cfg.warmResetClearsFc = false then s.featureControl else 0)

/-! ## Invariants -/

/-- The state after reset is legal, and its registers are within their widths. The model's choices: the constants of
that processor (log 1), the values of the registers (log 2), the tables (log 4). -/
def Obligations.ResetIsLegal : Prop := LegalState State.reset ∧ InWidths State.reset

/-- 10_state.md R27, R28, R31 to R35, R60, 42_vm_entry_exit.md R193: every step from a legal state, whatever comes
(an instruction, an exception, an event), leads to a legal state; 00_scope.md R8, R9, R12: the constants stay within
their bounds. The model's choices: the canonical tables (log 4, log 24, log 34). -/
def Obligations.StepKeepsLegal : Prop := ∀ s t : State, LegalState s → step s = .next t → LegalState t

/-- 00_scope.md R7, 10_state.md R45: every step keeps every register within its width. The model's choices: log 7. -/
def Obligations.StepKeepsWidths : Prop := ∀ s t : State, InWidths s → step s = .next t → InWidths t

/-- 10_state.md R37, 70_reset_and_hazards.md R278: no step, not even a reset, changes a capability constant. -/
def Obligations.ParametersConstant : Prop := ∀ s t : State, step s = .next t → t.cfg = s.cfg

/-- 10_state.md R20: an instruction changes the VMX mode in the four ways the rule names and in no other. -/
def Obligations.ModeTransitions : Prop :=
  ∀ (i : Instr) (s t : State), exec i s = .next t → t.vmxMode ≠ s.vmxMode →
    (s.vmxMode = .outside ∧ t.vmxMode = .root ∧ ∃ m, i = .vmxon m)
      ∨ (s.vmxMode = .root ∧ t.vmxMode = .nonRoot ∧ (i = .vmlaunch ∨ i = .vmresume))
      ∨ (s.vmxMode = .nonRoot ∧ t.vmxMode = .root ∧ vmExit (triggerOf i s) s = .next t)
      ∨ (s.vmxMode = .root ∧ t.vmxMode = .outside ∧ i = .vmxoff)

/-- 10_state.md R30: once the lock bit is 1, IA32_FEATURE_CONTROL is constant until a power-up reset (or another reset
that clears it, 90_conflicts.md C5). -/
def Obligations.LockedFeatureControl : Prop :=
  ∀ s t : State, step s = .next t → s.featureControl.getLsbD 0 = true →
    t.featureControl = s.featureControl
      ∨ (s.raised = none ∧ ∃ rest, s.schedule = some .powerUpReset :: rest)
      ∨ (s.raised = none ∧ s.cfg.warmResetClearsFc = true ∧ ∃ rest, s.schedule = some .warmReset :: rest)

/-- 10_state.md R65: an instruction changes a launch state in two ways, VMLAUNCH of the current VMCS and VMCLEAR of its
operand. Beside them, the model's choices: a store into the data of an inactive VMCS leaves it undefined (log 25), and
VMXOFF leaves the active ones undefined (log 28). -/
def Obligations.LaunchStateChanges : Prop :=
  ∀ (i : Instr) (s t : State) (q : Word), exec i s = .next t → (vmcsAt t q).launch ≠ (vmcsAt s q).launch →
    (i = .vmlaunch ∧ s.currentVmcs = some q ∧ (vmcsAt s q).launch = .clear ∧ (vmcsAt t q).launch = .launched)
      ∨ ((∃ m, i = .vmclear m ∧ readMem s m 8 = .ok q) ∧ (vmcsAt t q).launch = .clear)
      ∨ ((∃ as a, StoresTo i s as ∧ a ∈ as ∧ inVmcsData s.cfg q a = true) ∧ q ∉ s.active
        ∧ (vmcsAt t q).launch = .undefined)
      ∨ (i = .vmxoff ∧ q ∈ s.active ∧ (vmcsAt t q).launch = .undefined)

/-- 10_state.md R60, R61: which instructions change the current VMCS and the set of active ones (VMXON by decision D9).
The model's choices: log 28. -/
def Obligations.ActiveAndCurrentChanges : Prop :=
  ∀ (i : Instr) (s t : State), exec i s = .next t →
    (t.currentVmcs = s.currentVmcs ∨ (∃ m p, i = .vmptrld m ∧ readMem s m 8 = .ok p ∧ t.currentVmcs = some p)
      ∨ (∃ m p, i = .vmclear m ∧ readMem s m 8 = .ok p ∧ s.currentVmcs = some p ∧ t.currentVmcs = none)
      ∨ ((∃ m, i = .vmxon m) ∧ t.currentVmcs = none))
    ∧ ((∀ q, q ∈ t.active ↔ q ∈ s.active)
      ∨ (∃ m p, i = .vmptrld m ∧ readMem s m 8 = .ok p ∧ ∀ q, q ∈ t.active ↔ q = p ∨ q ∈ s.active)
      ∨ (∃ m p, i = .vmclear m ∧ readMem s m 8 = .ok p ∧ ∀ q, q ∈ t.active ↔ q ∈ s.active ∧ q ≠ p)
      ∨ ((i = .vmlaunch ∨ i = .vmresume) ∧ t.vmxMode = .nonRoot ∧ ∃ p, s.currentVmcs = some p
        ∧ vmcsShadowing s.cfg p (vmcsAt s p) = true
        ∧ ∀ q, q ∈ t.active ↔ q = fieldVal s.cfg p (vmcsAt s p) .linkPointer ∨ q ∈ s.active))

/-- 20_memory.md R90, R91: memory is written by the stores of VMPTRST and VMREAD, at the addresses of their operands and
never where the processor owns a byte, and by VMCLEAR within the data of the region its operand names (so never in a
revision identifier, shadow-VMCS indicator or VMX-abort indicator); by nothing else. The model's choices: log 25,
log 26. -/
def Obligations.MemoryWriters : Prop :=
  ∀ (i : Instr) (s t : State), exec i s = .next t →
    t.mem = s.mem
      ∨ (∃ as, StoresTo i s as ∧ (∀ a ∈ as, processorOwned s a = false)
        ∧ ∀ a, a ∉ as → Memory.read t.mem a = Memory.read s.mem a)
      ∨ ∃ m p, i = .vmclear m ∧ readMem s m 8 = .ok p
        ∧ ∀ a, inVmcsData s.cfg p a = false → Memory.read t.mem a = Memory.read s.mem a

/-- 10_state.md R23, 60_exceptions.md R258: a base instruction that causes no VM exit does the same in VMX non-root as in
VMX root operation, where "unrestricted guest" is not in force. For LMSW from memory: where the VMX controls do not
make `Translate` (20_memory.md R96; log 14) answer differently in the two modes. -/
def Obligations.GuestCannotTell : Prop :=
  ∀ (i : Instr) (s : State), isVmx i = false → s.vmxMode = .nonRoot → exits s (triggerOf i s) = false →
    (∀ p, s.currentVmcs = some p → unrestrictedGuest s.cfg p (vmcsAt s p) = false) →
    (∀ m, i = .lmsw (.mem m) → ∀ lin, Machine.translate { s with vmxMode := .root } .read lin = Machine.translate s .read lin) →
    exec i s = inMode .nonRoot (exec i { s with vmxMode := .root })

/-! ## VMXON and VMXOFF -/

/-- 40_vmx_enter_leave.md R131, R133, R134 line 12: VMXON with everything in order (flags by G2, log 9). The model's
choices: the frame clauses by log 5, log 9, log 41, log 61; also log 27 (a VMCS in the region is as it was), log 28,
log 62. -/
def Obligations.VmxonEnters : Prop :=
  ∀ (s : State) (m : MemOperand) (q : Word), VmxonReady s → VmxonSupported s → readMem s m 8 = .ok q →
    validPtr s.cfg q = true → regionInMemory s.cfg q s.cfg.vmxonSize = true → vmxonRegionOk s q = true →
    exec (.vmxon m) s = .next { s with
      vmxMode := .root
      vmxonPtr := q
      currentVmcs := none
      rip := s.nextRip
      rflags := successFlags s
      blockingBySti := false
      failed := false }

/-- 40_vmx_enter_leave.md R132: the four faults the source states for VMXON, each checked on the state before. -/
def Obligations.VmxonFaults : Prop :=
  ∀ (s : State) (m : MemOperand),
    (s.cr4.getLsbD 13 = false → exec (.vmxon m) s = .next { s with raised := some .invalidOpcode })
    ∧ (s.cr4.getLsbD 13 = true → modeOk s = true → s.vmxMode = .outside →
      (s.featureControl.getLsbD 0 = false → exec (.vmxon m) s = .next { s with raised := some .generalProtection })
      ∧ (s.smxOp = true → s.featureControl.getLsbD 1 = false →
        exec (.vmxon m) s = .next { s with raised := some .generalProtection })
      ∧ (s.smxOp = false → s.featureControl.getLsbD 2 = false →
        exec (.vmxon m) s = .next { s with raised := some .generalProtection }))

/-- 40_vmx_enter_leave.md R135: where VMXON "fails", VMX operation is not entered; the kind is the parameter. The
model's choices: log 30, and in what VMfail leaves (60_exceptions.md R234) the report in RFLAGS and the error field
(log 9, log 10, PRESUMED), the end of STI blocking (log 41) and RIP (log 5, log 61). -/
def Obligations.VmxonFailsUnsupported : Prop :=
  ∀ (s : State) (m : MemOperand), VmxonReady s → ¬ VmxonSupported s →
    (s.cfg.vmxonFailKind = .gp → exec (.vmxon m) s = .next { s with raised := some .generalProtection })
    ∧ (s.cfg.vmxonFailKind = .vmfail → VmFails s (exec (.vmxon m) s))

/-- 40_vmx_enter_leave.md R134 lines 3b and 11, R136: VMXON in VMX root operation, and with a bad pointer or region (in
memory, log 62). The model's choices in what VMfail leaves (60_exceptions.md R234): the report in RFLAGS and the error
field (log 9, log 10, PRESUMED), the end of STI blocking (log 41) and RIP (log 5, log 61). -/
def Obligations.VmxonVmfails : Prop :=
  ∀ (s : State) (m : MemOperand),
    (RootReady s → s.cr4.getLsbD 13 = true → VmFails s (exec (.vmxon m) s))
    ∧ (∀ q, VmxonReady s → VmxonSupported s → readMem s m 8 = .ok q →
      (validPtr s.cfg q = false ∨ (regionInMemory s.cfg q s.cfg.vmxonSize = true ∧ vmxonRegionOk s q = false)) →
      VmFails s (exec (.vmxon m) s))

/-- 40_vmx_enter_leave.md R140, R142 (D10): VMXOFF leaves VMX operation; the pointers and the active set stay, nothing
else but flags and RIP changes. The model's choices: a VMCS that was active is undefined until it is cleared (D10;
log 28); memory as it was, also in the VMXON region (log 27); the frame clauses by log 5, log 9, log 41, log 61. -/
def Obligations.VmxoffLeaves : Prop :=
  ∀ s : State, RootReady s →
    ∃ v, exec .vmxoff s = .next { s with
        vmxMode := .outside
        vmcss := v
        rip := s.nextRip
        rflags := successFlags s
        blockingBySti := false
        failed := false }
      ∧ (∀ p, p ∈ s.active →
        (vmcsAt { s with vmcss := v } p).launch = .undefined ∧ (vmcsAt { s with vmcss := v } p).data = [])
      ∧ ∀ p, p ∉ s.active → vmcsAt { s with vmcss := v } p = vmcsAt s p

/-- 30_encoding.md R112, 41_vmcs_maintenance.md R150, 42_vm_entry_exit.md R194 (D4, D20): #UD for every VMX instruction
but VMXON outside VMX operation and for every one in a wrong operating mode, #GP for every one in VMX root operation at a
CPL other than 0; 40_vmx_enter_leave.md R134 line 4: #GP for VMXON outside VMX operation at a CPL other than 0. -/
def Obligations.VmxUnavailable : Prop :=
  ∀ (i : Instr) (s : State), isVmx i = true →
    (s.vmxMode = .outside → (∀ m, i ≠ .vmxon m) → exec i s = .next { s with raised := some .invalidOpcode })
    ∧ (modeOk s = false → exec i s = .next { s with raised := some .invalidOpcode })
    ∧ (s.vmxMode = .root → modeOk s = true → s.cr4.getLsbD 13 = true → cpl s ≠ 0 →
      exec i s = .next { s with raised := some .generalProtection })
    ∧ (s.vmxMode = .outside → modeOk s = true → s.cr4.getLsbD 13 = true → cpl s ≠ 0 → (∃ m, i = .vmxon m) →
      exec i s = .next { s with raised := some .generalProtection })

/-! ## VMCS maintenance -/

/-- 41_vmcs_maintenance.md R151, R153: VMPTRLD makes the VMCS active and current and changes no VMCS and no byte. The
model's choices: the frame clauses by log 5, log 9, log 41, log 61; also log 62. -/
def Obligations.VmptrldLoads : Prop :=
  ∀ (s : State) (m : MemOperand) (p : Word), RootReady s → readMem s m 8 = .ok p → validPtr s.cfg p = true →
    p ≠ s.vmxonPtr → regionInMemory s.cfg p (vmcsSize s.cfg) = true → headerRevision s.mem p = vmcsRevision s.cfg →
    (headerShadow s.mem p = true → s.cfg.shadowVmcs = true) →
    ∃ l, (∀ q, q ∈ l ↔ q = p ∨ q ∈ s.active) ∧ exec (.vmptrld m) s = .next { s with
      active := l
      currentVmcs := some p
      rip := s.nextRip
      rflags := successFlags s
      blockingBySti := false
      failed := false }

/-- 41_vmcs_maintenance.md R152, R153 lines 3, 5, 6, R160 line 3: when VMPTRLD and VMCLEAR fail, with no effect (lines
5 and 6 for a region in memory, log 62). The model's choices in what VMfail leaves (60_exceptions.md R234): the report
in RFLAGS and the error field (log 9, log 10, PRESUMED), the end of STI blocking (log 41) and RIP (log 5, log 61). -/
def Obligations.PointerFails : Prop :=
  ∀ (s : State) (m : MemOperand) (p : Word), RootReady s → readMem s m 8 = .ok p →
    ((validPtr s.cfg p = false ∨ p = s.vmxonPtr ∨ (regionInMemory s.cfg p (vmcsSize s.cfg) = true
        ∧ (headerRevision s.mem p ≠ vmcsRevision s.cfg ∨ (headerShadow s.mem p = true ∧ s.cfg.shadowVmcs = false)))) →
      VmFails s (exec (.vmptrld m) s))
    ∧ ((validPtr s.cfg p = false ∨ p = s.vmxonPtr) → VmFails s (exec (.vmclear m) s))

/-- 41_vmcs_maintenance.md R155, 20_memory.md R88, R89: VMPTRST stores the eight bytes of the current-VMCS pointer, or
of FFFFFFFF_FFFFFFFFH, and changes no other byte. The model's choices: the frame clauses by log 5, log 9, log 41,
log 61; also log 11 (byte order), log 25, log 62. -/
def Obligations.VmptrstStores : Prop :=
  ∀ (s : State) (m : MemOperand) (as : List Nat), RootReady s → Storable s m 8 as →
    ∃ mem v, exec (.vmptrst m) s = .next { s with
        mem := mem
        vmcss := v
        rip := s.nextRip
        rflags := successFlags s
        blockingBySti := false
        failed := false }
      ∧ (∀ p, s.currentVmcs = some p → Stored as p s { s with mem := mem })
      ∧ (s.currentVmcs = none → Stored as 0xFFFFFFFFFFFFFFFF#64 s { s with mem := mem })
      ∧ VmcssAfterStore as s v

/-- 41_vmcs_maintenance.md R158, R160, 20_memory.md R90, R100: VMCLEAR makes the VMCS inactive, not current and clear,
keeps what was written to its fields, and touches no other VMCS and no byte outside the region's data. The model's
choices: the frame clauses by log 5, log 9, log 41, log 61; also log 24, log 26, log 62. -/
def Obligations.VmclearClears : Prop :=
  ∀ (s : State) (m : MemOperand) (p : Word), RootReady s → readMem s m 8 = .ok p → validPtr s.cfg p = true →
    p ≠ s.vmxonPtr → regionInMemory s.cfg p (vmcsSize s.cfg) = true →
    ∃ mem v l, exec (.vmclear m) s = .next { s with
        mem := mem
        vmcss := v
        active := l
        currentVmcs := if s.currentVmcs = some p then none else s.currentVmcs
        rip := s.nextRip
        rflags := successFlags s
        blockingBySti := false
        failed := false }
      ∧ (∀ q, q ∈ l ↔ q ∈ s.active ∧ q ≠ p)
      ∧ (vmcsAt { s with vmcss := v } p).launch = .clear
      ∧ (vmcsAt { s with vmcss := v } p).data = (vmcsAt s p).data
      ∧ (∀ q, q ≠ p → vmcsAt { s with vmcss := v } q = vmcsAt s q)
      ∧ ∀ a, (a < p.toNat + 8 ∨ p.toNat + vmcsSize s.cfg ≤ a) → Memory.read mem a = Memory.read s.mem a

/-- 10_state.md R69: every edge of the state diagram of one VMCS `x`, with `y` another. -/
def Obligations.VmcsStateDiagram : Prop :=
  ∀ (s t : State) (m : MemOperand) (x y : Word), RootReady s → x ≠ y →
    (readMem s m 8 = .ok x → validPtr s.cfg x = true → x ≠ s.vmxonPtr → exec (.vmclear m) s = .next t →
      triple t x = (false, false, .clear))
    ∧ (readMem s m 8 = .ok x → loadable s x = true → exec (.vmptrld m) s = .next t →
      triple t x = (true, true, (vmcsAt s x).launch))
    ∧ (readMem s m 8 = .ok y → loadable s y = true → exec (.vmptrld m) s = .next t →
      triple t x = (decide (x ∈ s.active), false, (vmcsAt s x).launch))
    ∧ (s.currentVmcs = some x → x ∈ s.active → (vmcsAt s x).launch = .clear → exec .vmlaunch s = .next t →
      t.vmxMode = .nonRoot → triple t x = (true, true, .launched))

/-- 41_vmcs_maintenance.md R163, R165: VMREAD into a register. Of a 64-bit field that takes two accesses, `f.high` is
the high half. The operand size is 64 bits in 64-bit mode and 32 elsewhere, or W, as the parameter says (log 52). The
model's choices: the frame clauses by log 5, log 9, log 41, log 61; also log 52, log 53. -/
def Obligations.VmreadRegister : Prop :=
  ∀ (s : State) (dst field : Reg) (p : Word) (f : FieldAccess), RootReady s → s.currentVmcs = some p →
    selectField s field = some f →
    exec (.vmread (.reg dst) field) s = .next { s with
      gprs := s.gprs.set dst (truncTo (operandBits s)
        (if f.high then fieldVal s.cfg p (vmcsAt s p) f.field >>> 32 else fieldVal s.cfg p (vmcsAt s p) f.field))
      rip := s.nextRip
      rflags := successFlags s
      blockingBySti := false
      failed := false }

/-- 41_vmcs_maintenance.md R163, R165 (general knowledge, D23; log 53): VMREAD into memory, of the operand size (log 52);
of a 64-bit field that takes two accesses, `f.high` is the high half. The bytes lie least significant first (20_memory.md
R89, PRESUMED; log 11). The model's choices: the frame clauses by log 5, log 9, log 41, log 61; also log 25, log 52,
log 53, log 62. -/
def Obligations.VmreadMemory : Prop :=
  ∀ (s : State) (m : MemOperand) (field : Reg) (p : Word) (f : FieldAccess) (as : List Nat), RootReady s →
    s.currentVmcs = some p → selectField s field = some f → Storable s m (operandBits s / 8) as →
    ∃ mem v, exec (.vmread (.mem m) field) s = .next { s with
        mem := mem
        vmcss := v
        rip := s.nextRip
        rflags := successFlags s
        blockingBySti := false
        failed := false }
      ∧ Stored as (if f.high then fieldVal s.cfg p (vmcsAt s p) f.field >>> 32
          else fieldVal s.cfg p (vmcsAt s p) f.field) s { s with mem := mem }
      ∧ VmcssAfterStore as s v

/-- 41_vmcs_maintenance.md R168, R169, R170: VMWRITE from a register or memory. The field then holds the source cut to
the field's width; every other field, the launch state and every other VMCS are as before. Of a 64-bit field that takes
two accesses, an access to the high half (`f.high`) puts the source there and keeps the low half (R165 and
93_implementation_defined.md G16, general knowledge; PRESUMED, log 53). The model's choices: the frame clauses by log 5,
log 9, log 41, log 61; also log 52. -/
def Obligations.VmwriteWrites : Prop :=
  ∀ (s : State) (field : Reg) (src : RmOperand) (p x : Word) (f : FieldAccess), RootReady s → s.currentVmcs = some p →
    selectField s field = some f → (isExitInfo f.field = true → s.cfg.exitInfoWritable = true) →
    readRm s src (operandBits s / 8) = .ok x →
    ∃ v, exec (.vmwrite field src) s = .next { s with
        vmcss := v
        rip := s.nextRip
        rflags := successFlags s
        blockingBySti := false
        failed := false }
      ∧ fieldVal s.cfg p (vmcsAt { s with vmcss := v } p) f.field
        = truncTo (fieldWidth s.cfg f.field)
          (if f.high then (x <<< 32) ||| low32 (fieldVal s.cfg p (vmcsAt s p) f.field) else x)
      ∧ (∀ g, g ≠ f.field →
        fieldVal s.cfg p (vmcsAt { s with vmcss := v } p) g = fieldVal s.cfg p (vmcsAt s p) g)
      ∧ (vmcsAt { s with vmcss := v } p).launch = (vmcsAt s p).launch
      ∧ ∀ q, q ≠ p → vmcsAt { s with vmcss := v } q = vmcsAt s q

/-- 41_vmcs_maintenance.md R163 lines 2 and 5, R168 lines 2, 5 and 6: when VMREAD and VMWRITE fail. The model's choices
in what VMfail leaves (60_exceptions.md R234): the report in RFLAGS and the error field (log 9, log 10,
PRESUMED), the end of STI blocking (log 41) and RIP (log 5, log 61). -/
def Obligations.VmreadVmwriteFail : Prop :=
  ∀ (s : State) (field : Reg) (o : RmOperand), RootReady s →
    ((s.currentVmcs = none ∨ selectField s field = none) →
      VmFails s (exec (.vmread o field) s) ∧ VmFails s (exec (.vmwrite field o) s))
    ∧ (∀ f, selectField s field = some f → isExitInfo f.field = true → s.cfg.exitInfoWritable = false →
      VmFails s (exec (.vmwrite field o) s))

/-! ## VM entries and VM exits -/

/-- 42_vm_entry_exit.md R181, R182, R185, R186, R190, R192: VMLAUNCH with a clear and VMRESUME with a launched VMCS
enter the guest when the checks pass. The model's choices: log 23, log 54. -/
def Obligations.VmentryEntersGuest : Prop :=
  ∀ (s : State) (p : Word), RootReady s → s.currentVmcs = some p → headerShadow s.mem p = false →
    entryCheck s p = .pass →
    ((vmcsAt s p).launch = .clear → ∃ t, exec .vmlaunch s = .next t ∧ Entered p s t)
    ∧ ((vmcsAt s p).launch = .launched → ∃ t, exec .vmresume s = .next t ∧ Entered p s t)

/-- 42_vm_entry_exit.md R191, R198, 00_scope.md R12, 93_implementation_defined.md U11: a VM entry passes only with
supported values of CR0 and CR4 in the guest-state and host-state areas and with an activity state that the processor
supports (active, or one of `P_ACTIVITY_STATES`). The model's choices: the rest of the checks is log 21's. -/
def Obligations.EntryCheckRejects : Prop :=
  ∀ (s : State) (p : Word), entryCheck s p = .pass →
    cr4Ok s.cfg (fieldVal s.cfg p (vmcsAt s p) (.guest .cr4)) = true
    ∧ (unrestrictedGuest s.cfg p (vmcsAt s p) = false →
      cr0Ok s.cfg (fieldVal s.cfg p (vmcsAt s p) (.guest .cr0)) = true)
    ∧ (unrestrictedGuest s.cfg p (vmcsAt s p) = true →
      cr0Ok s.cfg (fieldVal s.cfg p (vmcsAt s p) (.guest .cr0) ||| 0x80000001#64) = true)
    ∧ cr0Ok s.cfg (fieldVal s.cfg p (vmcsAt s p) (.host .cr0)) = true
    ∧ cr4Ok s.cfg (fieldVal s.cfg p (vmcsAt s p) (.host .cr4)) = true
    ∧ ∃ a, activityOf (fieldVal s.cfg p (vmcsAt s p) (.guest .activity)) = some a
      ∧ (a = .active ∨ a ∈ s.cfg.activityStates)

/-- 42_vm_entry_exit.md R182, R186, R189: when VMLAUNCH and VMRESUME fail: no current VMCS, a shadow VMCS, the wrong
launch state, or checks that fail early. One answer of the checks is used up in the last case. The model's choices:
log 21, and in what VMfail leaves (60_exceptions.md R234) the report in RFLAGS and the error field (log 9, log 10,
PRESUMED), the end of STI blocking (log 41) and RIP (log 5, log 61). -/
def Obligations.VmentryFails : Prop :=
  ∀ s : State, RootReady s →
    (s.currentVmcs = none → VmFails s (exec .vmlaunch s) ∧ VmFails s (exec .vmresume s))
    ∧ (∀ p, s.currentVmcs = some p → headerShadow s.mem p = true →
      VmFails s (exec .vmlaunch s) ∧ VmFails s (exec .vmresume s))
    ∧ (∀ p, s.currentVmcs = some p → headerShadow s.mem p = false → (vmcsAt s p).launch = .launched →
      VmFails s (exec .vmlaunch s))
    ∧ (∀ p, s.currentVmcs = some p → headerShadow s.mem p = false → (vmcsAt s p).launch = .clear →
      VmFails s (exec .vmresume s))
    ∧ (∀ p, s.currentVmcs = some p → headerShadow s.mem p = false → entryCheck s p = .failEarly →
      ((vmcsAt s p).launch = .clear →
        VmFails { s with entryVerdicts := s.entryVerdicts.tail } (exec .vmlaunch s))
      ∧ ((vmcsAt s p).launch = .launched →
        VmFails { s with entryVerdicts := s.entryVerdicts.tail } (exec .vmresume s)))

/-- The model's choice for checks that fail late (42_vm_entry_exit.md R189, D13, G9; log 22), for VMLAUNCH and VMRESUME:
control goes to the host-state area, with the cause recorded (log 19), the launch state unchanged and the guest-state
area as it was. -/
def Obligations.VmentryFailsLate : Prop :=
  ∀ (s : State) (p : Word) (r : ExitRecord), RootReady s → s.currentVmcs = some p → headerShadow s.mem p = false →
    entryCheck s p = .failLate → lookupExitInfo .entryFailure s.cfg.exitInfo = some r →
    ((vmcsAt s p).launch = .clear → ∃ t, exec .vmlaunch s = .next t ∧ FailedLate p r s t)
    ∧ ((vmcsAt s p).launch = .launched → ∃ t, exec .vmresume s = .next t ∧ FailedLate p r s t)

/-- 42_vm_entry_exit.md R194, R196 to R200, 60_exceptions.md R249: VMCALL in VMX non-root operation, at any CPL. The
model's choices in what a VM exit leaves: log 18, log 19, log 20, log 54. -/
def Obligations.VmcallExits : Prop :=
  ∀ (s : State) (p : Word) (r : ExitRecord), s.vmxMode = .nonRoot → modeOk s = true → s.currentVmcs = some p →
    lookupExitInfo .vmcall s.cfg.exitInfo = some r → ∃ t, exec .vmcall s = .next t ∧ Exited (triggerOf .vmcall s) p r s t

/-- 42_vm_entry_exit.md R195 to R200, 60_exceptions.md R251: a VM exit replaces the whole ordinary operation of every
instruction in `EXITING`; the saved state is the state before it. The model's choices: the #UD conditions come first
(D19), and in what a VM exit leaves: log 18, log 19, log 20, log 54. -/
def Obligations.ExitReplacesInstruction : Prop :=
  ∀ (i : Instr) (s : State) (p : Word) (r : ExitRecord), s.vmxMode = .nonRoot → exitReached i s = true →
    exits s (triggerOf i s) = true → s.currentVmcs = some p → lookupExitInfo (causeOf i) s.cfg.exitInfo = some r →
    ∃ t, exec i s = .next t ∧ Exited (triggerOf i s) p r s t

/-- 42_vm_entry_exit.md R183, R194, R202, 41_vmcs_maintenance.md R150 line 2b, 20_memory.md R91: six stops of the spec
(D5, D12, D15), and what the platform's memory map (20_memory.md R80, R94, D14; log 62) stops, by name: VMCALL in VMX
root operation (log 31), an undefined launch state (log 32), a VMX instruction outside `EXITING` (log 33), a store of
VMPTRST and of VMREAD where the processor owns a byte (log 25), a VM exit that `EXIT_INFO` gives no record (log 19); an
access to a device, or to an address that is absent, where `Translate` lists nothing; VMXON, VMPTRLD and VMCLEAR of a
region that is not in memory. -/
def Obligations.Refused : Prop :=
  ∀ s : State,
    (RootReady s → exec .vmcall s = .refused .vmcallInRoot)
    ∧ (∀ p, RootReady s → s.currentVmcs = some p → headerShadow s.mem p = false →
      (vmcsAt s p).launch = .undefined → exec .vmlaunch s = .refused .undefinedLaunchState
        ∧ exec .vmresume s = .refused .undefinedLaunchState)
    ∧ (∀ i, isVmx i = true → i ≠ .vmcall → s.vmxMode = .nonRoot → exitReached i s = true →
      exits s (triggerOf i s) = false → exec i s = .refused .nonRootNotExiting)
    ∧ (∀ m as a, RootReady s → segUsable s (operandSeg m) = true → physAddrs s .write 8 (linearAddr s m) = .ok as →
      a ∈ as → processorOwned s a = true → exec (.vmptrst m) s = .refused .storeToProcessorRegion)
    ∧ (∀ m field p f as a, RootReady s → s.currentVmcs = some p → selectField s field = some f →
      segUsable s (operandSeg m) = true → physAddrs s .write (operandBits s / 8) (linearAddr s m) = .ok as → a ∈ as →
      processorOwned s a = true → exec (.vmread (.mem m) field) s = .refused .storeToProcessorRegion)
    ∧ (∀ i p, s.vmxMode = .nonRoot → exitReached i s = true → exits s (triggerOf i s) = true → s.currentVmcs = some p →
      lookupExitInfo (causeOf i) s.cfg.exitInfo = none → exec i s = .refused .exitUndetermined)
    ∧ (∀ acc lin, findTranslation s acc lin s.cfg.translation = none → lin.toNat < 2 ^ s.cfg.paWidth →
      (inMap s.cfg .absent lin.toNat = true → Machine.translate s acc lin = .error (.fault .noSuchPhysicalAddress))
      ∧ (inMap s.cfg .absent lin.toNat = false → inMap s.cfg .device lin.toNat = true →
        Machine.translate s acc lin = .error (.refuse .deviceAccess)))
    ∧ (∀ m, RootReady s → segUsable s (operandSeg m) = true →
      (Machine.translate s .read (linearAddr s m) = .error (.refuse .deviceAccess) →
        exec (.vmptrld m) s = .refused .deviceAccess ∧ exec (.vmclear m) s = .refused .deviceAccess)
      ∧ (Machine.translate s .write (linearAddr s m) = .error (.refuse .deviceAccess) →
        exec (.vmptrst m) s = .refused .deviceAccess))
    ∧ (∀ m p, RootReady s → readMem s m 8 = .ok p → validPtr s.cfg p = true → p ≠ s.vmxonPtr →
      regionInMemory s.cfg p (vmcsSize s.cfg) = false →
      exec (.vmptrld m) s = .refused .regionNotMemory ∧ exec (.vmclear m) s = .refused .regionNotMemory)
    ∧ (∀ m q, VmxonReady s → VmxonSupported s → readMem s m 8 = .ok q → validPtr s.cfg q = true →
      regionInMemory s.cfg q s.cfg.vmxonSize = false → exec (.vmxon m) s = .refused .regionNotMemory)

/-- 10_state.md R48, 60_exceptions.md R236, 40_vmx_enter_leave.md R134 line 10, 20_memory.md R96: an instruction that
reaches its memory operand raises the exception of an unusable segment, or of an access that `Translate` faults, and
changes nothing else (60_exceptions.md R232). The model's choices: neither fault has a name in the spec (log 14 for the
access, log 58 for the segment); the order of the conditions checked before the operand (log 29). -/
def Obligations.OperandFaults : Prop :=
  ∀ (s : State) (m : MemOperand) (x : Exception),
    (RootReady s → OperandRaises s m .read 8 x →
      exec (.vmptrld m) s = .next { s with raised := some x } ∧ exec (.vmclear m) s = .next { s with raised := some x })
    ∧ (VmxonReady s → VmxonSupported s → OperandRaises s m .read 8 x →
      exec (.vmxon m) s = .next { s with raised := some x })
    ∧ (RootReady s → OperandRaises s m .write 8 x → exec (.vmptrst m) s = .next { s with raised := some x })
    ∧ (∀ field p f, RootReady s → s.currentVmcs = some p → selectField s field = some f →
      (OperandRaises s m .write (operandBits s / 8) x →
        exec (.vmread (.mem m) field) s = .next { s with raised := some x })
      ∧ ((isExitInfo f.field = true → s.cfg.exitInfoWritable = true) → OperandRaises s m .read (operandBits s / 8) x →
        exec (.vmwrite field (.mem m)) s = .next { s with raised := some x }))
    ∧ (NotExiting (.lmsw (.mem m)) s → cpl s = 0 → OperandRaises s m .read 2 x →
      exec (.lmsw (.mem m)) s = .next { s with raised := some x })

/-! ## Base instructions -/

/-- 43_base_instructions.md R210, R211: CPUID. ECX bit 5 of leaf 1 and EAX bits 7:0 of leaf 80000008H are the
processor's; EAX, EBX, ECX, EDX are zero-extended, and nothing else changes but RIP. The model's choices: the
frame clauses by log 5, log 36 (RFLAGS), log 41, log 61; also log 35. -/
def Obligations.CpuidReports : Prop :=
  ∀ s : State, NotExiting .cpuid s →
    ∃ a b c d : BitVec 32, exec .cpuid s = .next { s with
        gprs := { s.gprs with
          rax := a.setWidth 64
          rbx := b.setWidth 64
          rcx := c.setWidth 64
          rdx := d.setWidth 64 }
        rip := s.nextRip
        blockingBySti := false
        failed := false }
      ∧ ((gpr .rax s).setWidth 32 = 1#32 → c.getLsbD 5 = s.cfg.vmx)
      ∧ ((gpr .rax s).setWidth 32 = 0x80000008#32 → a.extractLsb' 0 8 = BitVec.ofNat 8 s.cfg.paWidth)

/-- 43_base_instructions.md R213: WRMSR with the MSR address 3AH and the value `v` in EDX:EAX. The model's choices: ECX,
EDX:EAX and CPL 0 (G13; log 34), the refusal of bits 63:3 (D22), the frame clauses by log 5, log 36 (RFLAGS), log 41,
log 61. -/
def Obligations.WrmsrFeatureControl : Prop :=
  ∀ (s : State) (v : Word), NotExiting .wrmsr s → cpl s = 0 → (gpr .rcx s).setWidth 32 = 0x3A#32 →
    v = (gpr .rdx s).setWidth 32 ++ (gpr .rax s).setWidth 32 →
    exec .wrmsr s =
      if s.featureControl.getLsbD 0 = true then .next { s with raised := some .generalProtection }
      else if v.getLsbD 1 = true ∧ ¬ (s.cfg.vmx = true ∧ s.cfg.smx = true) then
        .next { s with raised := some .generalProtection }
      else if v.getLsbD 2 = true ∧ s.cfg.vmx = false then .next { s with raised := some .generalProtection }
      else if v.extractLsb' 3 61 ≠ 0 then .refused .featureControlReserved
      else .next { s with
        featureControl := v
        rip := s.nextRip
        blockingBySti := false
        failed := false }

/-- The model's choice for the other MSRs (10_state.md R37, R51 to R54, R79; addresses by G5; log 34): an MSR that can be
written takes the value, cut to its width; a capability MSR or an address without an MSR raises #GP. RDMSR
(43_base_instructions.md R212; log 63), which the step runs though no row of the table spells it, gives the MSR in
EDX:EAX, zero-extended, or raises #GP; at a CPL other than 0 it raises #GP. The frame clauses by log 5,
log 36 (RFLAGS), log 41, log 61. -/
def Obligations.MsrAccess : Prop :=
  ∀ (s : State) (v : Word), v = (gpr .rdx s).setWidth 32 ++ (gpr .rax s).setWidth 32 →
    (∀ r, NotExiting .wrmsr s → cpl s = 0 → msrAt s.cfg ((gpr .rcx s).setWidth 32) = some r → r ≠ .featureControl →
      (r ∈ [Msr.vmxBasic, .vmxMisc, .vmxCr0Fixed0, .vmxCr0Fixed1, .vmxCr4Fixed0, .vmxCr4Fixed1, .vmxProcbasedCtls2] →
        exec .wrmsr s = .next { s with raised := some .generalProtection })
      ∧ (r ∉ [Msr.vmxBasic, .vmxMisc, .vmxCr0Fixed0, .vmxCr0Fixed1, .vmxCr4Fixed0, .vmxCr4Fixed1, .vmxProcbasedCtls2] →
        ∃ t, exec .wrmsr s = .next t ∧ t.rip = s.nextRip
          ∧ readMsr t r = (if r = .sysenterCs then truncTo 32 v
            else if r = .sysenterEsp ∨ r = .sysenterEip then truncTo (natWidth s.cfg) v else v)
          ∧ (∀ q, q ≠ r → readMsr t q = readMsr s q) ∧ t.gprs = s.gprs ∧ t.rflags = s.rflags ∧ t.cr0 = s.cr0
          ∧ t.cr4 = s.cr4 ∧ t.segs = s.segs ∧ t.mem = s.mem ∧ t.vmcss = s.vmcss ∧ t.vmxMode = s.vmxMode
          ∧ t.currentVmcs = s.currentVmcs ∧ t.active = s.active ∧ t.smxOp = s.smxOp))
    ∧ (NotExiting .wrmsr s → cpl s = 0 → msrAt s.cfg ((gpr .rcx s).setWidth 32) = none →
      exec .wrmsr s = .next { s with raised := some .generalProtection })
    ∧ (∀ r, (s.vmxMode = .nonRoot → exits s (.plain .rdmsr) = false) → cpl s = 0 →
      msrAt s.cfg ((gpr .rcx s).setWidth 32) = some r →
      execRdmsr s = .next { s with
        gprs := { s.gprs with
          rax := truncTo 32 (readMsr s r)
          rdx := readMsr s r >>> 32 }
        rip := s.nextRip
        blockingBySti := false
        failed := false })
    ∧ ((s.vmxMode = .nonRoot → exits s (.plain .rdmsr) = false) →
      (cpl s ≠ 0 ∨ msrAt s.cfg ((gpr .rcx s).setWidth 32) = none) →
      execRdmsr s = .next { s with raised := some .generalProtection })

/-- 43_base_instructions.md R217, 10_state.md R27, R28: MOV to CR0 (32 bits of the source outside 64-bit mode). The
model's choices: the frame clauses by log 5, log 36 (RFLAGS), log 41, log 61; also log 36. -/
def Obligations.MovToCr0 : Prop :=
  ∀ (s : State) (src : Reg) (v : Word), NotExiting (.movToCr 0 src) s → cpl s = 0 →
    v = truncTo (if mode64 s then 64 else 32) (gpr src s) →
    (Cr0Admitted s v → exec (.movToCr 0 src) s = .next { s with
      cr0 := v
      rip := s.nextRip
      blockingBySti := false
      failed := false })
    ∧ (¬ Cr0Admitted s v → exec (.movToCr 0 src) s = .next { s with raised := some .generalProtection })

/-- 43_base_instructions.md R217, 10_state.md R26, R27: MOV to CR4 on a processor with VMX. In VMX operation VMXE
cannot be cleared. The model's choices: the frame clauses by log 5, log 36 (RFLAGS), log 41, log 61; also log 36. -/
def Obligations.MovToCr4 : Prop :=
  ∀ (s : State) (src : Reg) (v : Word), NotExiting (.movToCr 4 src) s → cpl s = 0 → s.cfg.vmx = true →
    v = truncTo (if mode64 s then 64 else 32) (gpr src s) →
    ((s.vmxMode = .outside ∨ cr4Ok s.cfg v = true) → exec (.movToCr 4 src) s = .next { s with
      cr4 := v
      rip := s.nextRip
      blockingBySti := false
      failed := false })
    ∧ (s.vmxMode ≠ .outside → cr4Ok s.cfg v = false →
      exec (.movToCr 4 src) s = .next { s with raised := some .generalProtection })
    ∧ (s.vmxMode ≠ .outside → v.getLsbD 13 = false →
      exec (.movToCr 4 src) s = .next { s with raised := some .generalProtection })

/-- The model's choice for the moves the spec leaves to the base architecture (log 36): CR3 and CR2 take any value,
CR8 exists in 64-bit mode and takes four bits, VMXE cannot be set without VMX, and a number that names no control
register raises #UD. The model's choices: the frame clauses by log 5, log 36 (RFLAGS), log 41, log 61. -/
def Obligations.MovToOtherCrs : Prop :=
  ∀ (s : State) (src : Reg) (v : Word), cpl s = 0 → v = truncTo (if mode64 s then 64 else 32) (gpr src s) →
    (NotExiting (.movToCr 3 src) s → exec (.movToCr 3 src) s = .next { s with
      cr3 := v
      rip := s.nextRip
      blockingBySti := false
      failed := false })
    ∧ (NotExiting (.movToCr 2 src) s → exec (.movToCr 2 src) s = .next { s with
      cr2 := v
      rip := s.nextRip
      blockingBySti := false
      failed := false })
    ∧ (NotExiting (.movToCr 8 src) s → mode64 s = true → v.toNat < 16 → exec (.movToCr 8 src) s = .next { s with
      cr8 := v
      rip := s.nextRip
      blockingBySti := false
      failed := false })
    ∧ (NotExiting (.movToCr 8 src) s → mode64 s = true → 16 ≤ v.toNat →
      exec (.movToCr 8 src) s = .next { s with raised := some .generalProtection })
    ∧ (NotExiting (.movToCr 4 src) s → s.cfg.vmx = false → v.getLsbD 13 = true →
      exec (.movToCr 4 src) s = .next { s with raised := some .generalProtection })
    ∧ (∀ cr : BitVec 4, (cr ∉ [0#4, 2#4, 3#4, 4#4, 8#4] ∨ (cr = 8#4 ∧ mode64 s = false)) →
      exec (.movToCr cr src) s = .next { s with raised := some .invalidOpcode })

/-- 30_encoding.md R120 (log 36): MOV from a control register, cut to 32 bits outside 64-bit mode. The model's
choices: the frame clauses by log 5, log 36 (RFLAGS), log 41, log 61. -/
def Obligations.MovFromCr : Prop :=
  ∀ (s : State) (dst : Reg) (cr : BitVec 4), NotExiting (.movFromCr dst cr) s → cpl s = 0 →
    (∀ v, ((cr = 0#4 ∧ v = s.cr0) ∨ (cr = 2#4 ∧ v = s.cr2) ∨ (cr = 3#4 ∧ v = s.cr3) ∨ (cr = 4#4 ∧ v = s.cr4)
        ∨ (cr = 8#4 ∧ mode64 s = true ∧ v = s.cr8)) →
      exec (.movFromCr dst cr) s = .next { s with
        gprs := s.gprs.set dst (truncTo (if mode64 s then 64 else 32) v)
        rip := s.nextRip
        blockingBySti := false
        failed := false })
    ∧ ((cr ∉ [0#4, 2#4, 3#4, 4#4, 8#4] ∨ (cr = 8#4 ∧ mode64 s = false)) →
      exec (.movFromCr dst cr) s = .next { s with raised := some .invalidOpcode })

/-- 43_base_instructions.md R215 (bit 3 by G3, G13): CLTS clears CR0.TS, or raises #GP and leaves CR0. The model's
choices: TS is bit 3 (log 37), CPL 0 (log 36), the frame clauses by log 5, log 36 (RFLAGS), log 41, log 61. -/
def Obligations.CltsClearsTs : Prop :=
  ∀ (s : State) (v : Word), NotExiting .clts s → cpl s = 0 →
    (∀ n, v.getLsbD n = (s.cr0.getLsbD n && !decide (n = 3))) →
    (Cr0Admitted s v → exec .clts s = .next { s with
      cr0 := v
      rip := s.nextRip
      blockingBySti := false
      failed := false })
    ∧ (¬ Cr0Admitted s v → exec .clts s = .next { s with raised := some .generalProtection })

/-- 43_base_instructions.md R216 (G13): LMSW writes bits 3:0 of CR0 from its 16-bit source `x` and cannot clear PE, or
raises #GP and leaves CR0. The model's choices: the value LMSW leaves (log 37, the rule's own general knowledge), CPL 0
(log 36), the frame clauses by log 5, log 36 (RFLAGS), log 41, log 61. -/
def Obligations.LmswWrites : Prop :=
  ∀ (s : State) (src : RmOperand) (x v : Word), NotExiting (.lmsw src) s → cpl s = 0 → readRm s src 2 = .ok x →
    (∀ n, v.getLsbD n = if n = 0 then s.cr0.getLsbD 0 || x.getLsbD 0
      else if n < 4 then x.getLsbD n else s.cr0.getLsbD n) →
    (Cr0Admitted s v → exec (.lmsw src) s = .next { s with
      cr0 := v
      rip := s.nextRip
      blockingBySti := false
      failed := false })
    ∧ (¬ Cr0Admitted s v → exec (.lmsw src) s = .next { s with raised := some .generalProtection })

/-- 43_base_instructions.md R218, 10_state.md R34 (D27; the leaf numbers by 30_encoding.md R120; log 38). The model's
choices: the frame clauses by log 5, log 36 (RFLAGS), log 41, log 61. -/
def Obligations.GetsecSmx : Prop :=
  ∀ s : State,
    (s.cfg.smx = true → NotExiting .getsec s → (gpr .rax s).setWidth 32 = 4#32 →
      exec .getsec s = .next { s with smxOp := true, rip := s.nextRip, blockingBySti := false, failed := false })
    ∧ (s.cfg.smx = true → NotExiting .getsec s → (gpr .rax s).setWidth 32 = 5#32 →
      exec .getsec s = .next { s with smxOp := false, rip := s.nextRip, blockingBySti := false, failed := false })
    ∧ (s.cfg.smx = true → NotExiting .getsec s → (gpr .rax s).setWidth 32 ∉ [4#32, 5#32] →
      exec .getsec s = .refused .getsecLeafNotInSpec)
    ∧ (s.cfg.smx = false → exec .getsec s = .next { s with raised := some .invalidOpcode })

/-- 43_base_instructions.md R219, R220, 10_state.md R71, R72: a HLT that completes gives activity state HLT; MWAIT an
inactive condition that the activity state never shows, if the parameter says so. The model's choices: the frame
clauses by log 5, log 36 (RFLAGS), log 41, log 61; also log 40. -/
def Obligations.HltAndMwait : Prop :=
  ∀ s : State,
    (NotExiting .hlt s → cpl s = 0 →
      exec .hlt s = .next { s with activity := .hlt, rip := s.nextRip, blockingBySti := false, failed := false })
    ∧ (NotExiting .mwait s →
      exec .mwait s = .next { s with
        mwaitIdle := s.cfg.mwaitIdles
        rip := s.nextRip
        blockingBySti := false
        failed := false })

/-- 43_base_instructions.md R221 (G13): STI sets the interrupt flag and blocks until the next instruction has completed
if the flag was 0. The model's choices: the flag is RFLAGS bit 9, and above IOPL STI raises #GP (log 41, PRESUMED: R221
leaves STI to the base model); the frame clauses by log 5, log 36 (the other flags), log 41, log 61. -/
def Obligations.StiSetsFlag : Prop :=
  ∀ (s : State) (f : Word), NotExiting .sti s → (∀ n, n < 64 → f.getLsbD n = (s.rflags.getLsbD n || decide (n = 9))) →
    ((cpl s).toNat ≤ (s.rflags.extractLsb' 12 2).toNat → exec .sti s = .next { s with
      rflags := f
      rip := s.nextRip
      blockingBySti := !s.rflags.getLsbD 9
      failed := false })
    ∧ ((s.rflags.extractLsb' 12 2).toNat < (cpl s).toNat →
      exec .sti s = .next { s with raised := some .generalProtection })

/-- The base architecture's privilege check (G13 for WRMSR, the others PRESUMED; log 36): at a CPL other than 0. -/
def Obligations.BasePrivilege : Prop :=
  ∀ (i : Instr) (s : State), NotExiting i s → cpl s ≠ 0 →
    (i = .wrmsr ∨ i = .clts ∨ i = .hlt ∨ (∃ o, i = .lmsw o) ∨ (∃ n r, i = .movToCr n r ∧ (readCr s n).isSome = true)
      ∨ ∃ r n, i = .movFromCr r n ∧ (readCr s n).isSome = true) →
    exec i s = .next { s with raised := some .generalProtection }

/-! ## Events and exceptions -/

/-- 60_exceptions.md R242, R254, 10_state.md R36 (pending by D18): INIT is blocked and stays pending in VMX root
operation, causes a VM exit in VMX non-root operation, also when it was pending, and is refused outside VMX operation.
What the exit leaves it leaves of `freshen s`, `s` with the free values of this step. The model's choices: log 43, and
in what a VM exit leaves: log 18, log 19, log 20, log 54. -/
def Obligations.InitSignal : Prop :=
  ∀ (s : State) (rest : List (Option Event)), s.raised = none →
    (s.schedule = some .init :: rest → s.vmxMode = .root →
      step s = .next { s with draws := s.draws + 1, schedule := rest, initPending := true })
    ∧ (s.schedule = some .init :: rest → s.vmxMode = .outside → step s = .refused .initOutsideVmx)
    ∧ (∀ p r, (s.schedule = some .init :: rest ∨ (s.schedule = [] ∧ s.initPending = true)) →
      s.vmxMode = .nonRoot → s.currentVmcs = some p → lookupExitInfo .init s.cfg.exitInfo = some r →
      ∃ t, step s = .next t ∧ Exited (.plain .init) p r (freshen s) t ∧ t.initPending = false)

/-- 60_exceptions.md R243, 10_state.md R35: an A20M interrupt has no effect in VMX operation; outside it, it sets or
clears A20M mode. The model's choices: log 44. -/
def Obligations.A20mInterrupt : Prop :=
  ∀ (s : State) (enter : Bool) (rest : List (Option Event)), s.raised = none → s.schedule = some (.a20m enter) :: rest →
    (s.vmxMode ≠ .outside → step s = .next { s with draws := s.draws + 1, schedule := rest })
    ∧ (s.vmxMode = .outside → step s = .next { s with draws := s.draws + 1, schedule := rest, a20m := enter })

/-- 60_exceptions.md R237, R241, R244, R268, 10_state.md R71: a triple fault shuts the processor down, a SIPI ends the
wait for it and nothing else, what wakes a processor from HLT or MWAIT makes it active, and an unnamed event is
refused; 42_vm_entry_exit.md R195, R201, 60_exceptions.md R256: where the event is in `EXITING` in VMX non-root
operation, in any activity state, a VM exit takes its place (`freshen s` is `s` with the free values of this step). The
model's choices: log 39, log 45, log 46, log 48, and in what a VM exit leaves: log 18, log 19, log 20, log 54. -/
def Obligations.ActivityEvents : Prop :=
  ∀ (s : State) (rest : List (Option Event)), s.raised = none →
    (s.schedule = some .tripleFault :: rest → (s.vmxMode = .nonRoot → exits (freshen s) (.plain .tripleFault) = false) →
      step s = .next { s with draws := s.draws + 1, schedule := rest, activity := .shutdown })
    ∧ (s.schedule = some .sipi :: rest → s.activity = .waitForSipi →
      (s.vmxMode = .nonRoot → exits (freshen s) (.plain .sipi) = false) →
      ∃ t, step s = .next t ∧ t.activity = .active ∧ t.vmxMode = s.vmxMode ∧ t.gprs = s.gprs ∧ t.mem = s.mem
        ∧ t.cr0 = s.cr0 ∧ t.featureControl = s.featureControl)
    ∧ (s.schedule = some .sipi :: rest → s.activity ≠ .waitForSipi →
      (s.vmxMode = .nonRoot → exits (freshen s) (.plain .sipi) = false) → step s = .refused .sipiNotWaiting)
    ∧ (s.schedule = some .wake :: rest → step s = .next { s with
      draws := s.draws + 1
      schedule := rest
      activity := if s.activity = .hlt then .active else s.activity
      mwaitIdle := false })
    ∧ (∀ n, s.schedule = some (.other n) :: rest → (s.vmxMode = .nonRoot → exits (freshen s) (.plain (.other n)) = false) →
      step s = .refused .eventNotInSpec)
    ∧ (∀ c p r, (s.schedule = some .tripleFault :: rest ∧ c = .tripleFault)
        ∨ (s.schedule = some .sipi :: rest ∧ c = .sipi)
        ∨ (∃ n, s.schedule = some (.other n) :: rest ∧ c = .other n) →
      s.vmxMode = .nonRoot → exits (freshen s) (.plain c) = true → s.currentVmcs = some p →
      lookupExitInfo c s.cfg.exitInfo = some r → ∃ t, step s = .next t ∧ Exited (.plain c) p r (freshen s) t)

/-- 60_exceptions.md R232, R240 (D19; log 8): the step after a raised exception hands it over: to the VMM in VMX non-root
operation if the controls say so, else to the base architecture, whose delivery the spec does not give. The model's
choices: log 8, and in what a VM exit leaves: log 18, log 19, log 20, log 54. -/
def Obligations.ExceptionHandOver : Prop :=
  ∀ (s : State) (e : Exception), s.raised = some e →
    ((s.vmxMode ≠ .nonRoot ∨ exits (freshen s) (.plain (.exception e)) = false) → step s = .refused (.exceptionDelivery e))
    ∧ (∀ p r, s.vmxMode = .nonRoot → exits (freshen s) (.plain (.exception e)) = true → s.currentVmcs = some p →
      lookupExitInfo (.exception e) s.cfg.exitInfo = some r →
      ∃ t, step s = .next t ∧ Exited (.plain (.exception e)) p r (freshen s) t)
end

