-- ==== Sys2Proof/Laws/Decode.lean ====
section
/-! SUPPORT. The parts of an encoding: what the decoder reads of a ModR/M byte, a displacement, an addressing form and the
prefixes that the encoder wrote. -/

namespace Sys2Proof

theorem modOf_modrm : ∀ (m : BitVec 2) (r b : BitVec 3), modOf (modrm m r b) = m := by decide

theorem regOf_modrm : ∀ (m : BitVec 2) (r b : BitVec 3), regOf (modrm m r b) = r := by decide

theorem rmOf_modrm : ∀ (m : BitVec 2) (r b : BitVec 3), rmOf (modrm m r b) = b := by decide

theorem Reg.ofCode_hi_lo (r : Reg) : Reg.ofCode r.hi r.lo = r := by cases r <;> rfl

theorem crField_bits : ∀ cr : BitVec 4, BitVec.ofBool (cr.getLsbD 3) ++ cr.extractLsb' 0 3 = cr := by decide

theorem takeD32_putD32 (d : BitVec 32) (rest : List Byte) : takeD32 (putD32 d ++ rest) = .ok (d, rest) := by
  simp only [putD32, List.cons_append, List.nil_append, takeD32, Except.ok.injEq, Prod.mk.injEq, and_true]
  rw [BitVec.extractLsb'_append_extractLsb'_eq_extractLsb' (by omega),
    BitVec.extractLsb'_append_extractLsb'_eq_extractLsb' (by omega),
    BitVec.extractLsb'_append_extractLsb'_eq_extractLsb' (by omega)]
  exact BitVec.extractLsb'_eq_self

theorem takeDisp_bytes (d : Disp) (rest : List Byte) : takeDisp d.mod (d.bytes ++ rest) = .ok (d, rest) := by
  cases d with
  | none => rfl
  | d8 d => rfl
  | d32 d => simp [takeDisp, Disp.mod, Disp.bytes, takeD32_putD32, Except.map]

theorem Disp.mod_ne_three (d : Disp) : d.mod ≠ 3#2 := by cases d <;> simp [Disp.mod]

/-- A base that a form without SIB byte admits does not have the code that selects a SIB byte. -/
theorem Reg.lo_ne_four {b : Reg} (h : b.isSibCode = false) : b.lo ≠ 4#3 := by
  cases b <;> first | decide | cases h

/-- A base that a displacement admits does not spell the form without a base. -/
theorem Disp.not_noBase {d : Disp} {b : Reg} (h : d.fits b = true) : ¬ (d.mod = 0#2 ∧ b.lo = 5#3) := by
  rintro ⟨h1, h2⟩
  cases d with
  | none => cases b <;> first | (revert h2; decide) | (revert h; decide)
  | d8 d => exact absurd h1 (by decide : (1#2 : BitVec 2) ≠ 0#2)
  | d32 d => exact absurd h1 (by decide : (2#2 : BitVec 2) ≠ 0#2)

theorem Base16.ofCode_code (b : Base16) : Base16.ofCode b.code = b := by cases b <;> rfl

theorem takeD16_putD16 (d : BitVec 16) (rest : List Byte) : takeD16 (putD16 d ++ rest) = .ok (d, rest) := by
  simp only [putD16, List.cons_append, List.nil_append, takeD16, Except.ok.injEq, Prod.mk.injEq, and_true]
  rw [BitVec.extractLsb'_append_extractLsb'_eq_extractLsb' (by omega)]
  exact BitVec.extractLsb'_eq_self

theorem takeDisp16_bytes (d : Disp16) (rest : List Byte) : takeDisp16 d.mod (d.bytes ++ rest) = .ok (d, rest) := by
  cases d with
  | none => rfl
  | d8 d => rfl
  | d16 d => simp [takeDisp16, Disp16.mod, Disp16.bytes, takeD16_putD16, Except.map]

theorem Disp16.mod_ne_three (d : Disp16) : d.mod ≠ 3#2 := by cases d <;> simp [Disp16.mod]

/-- Base registers that a displacement admits do not spell the absolute form of 16-bit addressing. -/
theorem Disp16.not_absolute {d : Disp16} {b : Base16} (h : d.fits b = true) : ¬ (d.mod = 0#2 ∧ b.code = 6#3) := by
  rintro ⟨h1, h2⟩
  cases d with
  | none => cases b <;> first | (revert h2; decide) | (revert h; decide)
  | d8 d => exact absurd h1 (by decide : (1#2 : BitVec 2) ≠ 0#2)
  | d16 d => exact absurd h1 (by decide : (2#2 : BitVec 2) ≠ 0#2)

/-- What reads an addressing form after its ModR/M byte, with 16-bit addresses or without. -/
abbrev readsForm (addr16 : Bool) (p : Prefixes) (mb : Byte) (bs : List Byte) :
    Except DecodeError (AddrForm × List Byte) :=
  if addr16 then takeForm16 mb bs else takeForm p mb bs

/-- The bytes of an addressing form: a ModR/M byte with `reg` in its place, then what the decoder reads back. -/
theorem takeForm_bytes (reg : BitVec 3) (f : AddrForm) :
    ∃ mb t, f.bytes reg = mb :: t ∧ regOf mb = reg ∧ modOf mb ≠ 3#2
      ∧ (f.wf = true → ∀ (p : Prefixes) (rest : List Byte), p.rexX = f.rexX → p.rexB = f.rexB →
        readsForm f.is16 p mb (t ++ rest) = .ok (f, rest)) := by
  unfold readsForm
  cases f with
  | base b d =>
    refine ⟨_, _, rfl, regOf_modrm _ _ _, by rw [modOf_modrm]; exact d.mod_ne_three, fun w p rest _ hb => ?_⟩
    simp only [AddrForm.wf, Bool.and_eq_true, Bool.not_eq_true'] at w
    simp only [AddrForm.is16, Bool.false_eq_true, takeForm, rmOf_modrm, modOf_modrm, Reg.lo_ne_four w.1, Disp.not_noBase w.2, if_false, takeDisp_bytes,
      Except.map, hb, AddrForm.rexB, Reg.ofCode_hi_lo]
  | rel d =>
    refine ⟨_, _, rfl, regOf_modrm _ _ _, by rw [modOf_modrm]; decide, fun w p rest _ _ => ?_⟩
    simp [AddrForm.is16, takeForm, rmOf_modrm, modOf_modrm, takeD32_putD32, Except.map]
  | sib b s i d =>
    refine ⟨_, _, rfl, regOf_modrm _ _ _, by rw [modOf_modrm]; exact d.mod_ne_three, fun w p rest hx hb => ?_⟩
    simp only [AddrForm.is16, Bool.false_eq_true, takeForm, rmOf_modrm, modOf_modrm, List.cons_append, Disp.not_noBase w, if_false,
      takeDisp_bytes, Except.map, hb, hx, AddrForm.rexB, AddrForm.rexX, Reg.ofCode_hi_lo, regOf_modrm]
    simp
  | sibNoBase s i d =>
    refine ⟨_, _, rfl, regOf_modrm _ _ _, by rw [modOf_modrm]; decide, fun w p rest hx _ => ?_⟩
    simp only [AddrForm.is16, Bool.false_eq_true, takeForm, rmOf_modrm, modOf_modrm, List.cons_append, takeD32_putD32, Except.map, hx,
      AddrForm.rexX, Reg.ofCode_hi_lo, regOf_modrm]
    simp
  | base16 b d =>
    refine ⟨_, _, rfl, regOf_modrm _ _ _, by rw [modOf_modrm]; exact d.mod_ne_three, fun w p rest _ _ => ?_⟩
    simp only [AddrForm.is16, if_true, takeForm16, rmOf_modrm, modOf_modrm, Disp16.not_absolute w, if_false,
      takeDisp16_bytes, Except.map, Base16.ofCode_code]
  | abs16 d =>
    refine ⟨_, _, rfl, regOf_modrm _ _ _, by rw [modOf_modrm]; decide, fun w p rest _ _ => ?_⟩
    simp [AddrForm.is16, takeForm16, rmOf_modrm, modOf_modrm, takeD16_putD16, Except.map]

theorem prefixes_opcode (c : CodeSize) (p : Prefixes) (rest : List Byte) :
    prefixes c p (0x0F#8 :: rest) = (p, 0x0F#8 :: rest) := by
  cases c <;> rfl

theorem prefixes_rex (p : Prefixes) (r x b : Bool) (rest : List Byte) :
    prefixes .code64 p.noRex (rexPrefix r x b ++ 0x0F#8 :: rest)
      = ({ p with rexR := r, rexX := x, rexB := b }, 0x0F#8 :: rest) := by
  cases r <;> cases x <;> cases b <;> rfl

theorem AddrForm.bytes_length (reg : BitVec 3) (f : AddrForm) :
    1 ≤ (f.bytes reg).length ∧ (f.bytes reg).length ≤ 6 := by
  cases f with
  | base b d => cases d <;> simp [AddrForm.bytes, Disp.bytes, putD32]
  | rel d => simp [AddrForm.bytes, putD32]
  | sib b s i d => cases d <;> simp [AddrForm.bytes, Disp.bytes, putD32]
  | sibNoBase s i d => simp [AddrForm.bytes, putD32]
  | base16 b d => cases d <;> simp [AddrForm.bytes, Disp16.bytes, putD16]
  | abs16 d => simp [AddrForm.bytes, putD16]

theorem rexPrefix_length (r x b : Bool) : (rexPrefix r x b).length ≤ 1 := by
  unfold rexPrefix; split <;> simp

theorem segPrefix_length (s : Option Seg) : (segPrefix s).length ≤ 1 := by
  rcases s with _ | (_ | _ | _ | _ | _ | _ | _ | _) <;> decide

/-- A memory form takes 3 to 12 bytes when its mandatory prefix takes at most one. -/
theorem encodeMem_length (mandatory : List Byte) (h : mandatory.length ≤ 1) (op : Byte) (r : Bool) (reg : BitVec 3)
    (m : MemOperand) : 3 ≤ (encodeMem mandatory op r reg m).length ∧ (encodeMem mandatory op r reg m).length ≤ 12 := by
  have h1 := segPrefix_length m.seg
  have h2 := rexPrefix_length r m.form.rexX m.form.rexB
  have h3 := m.form.bytes_length reg
  have h4 : ((if m.addrPrefix then [0x67#8] else []) : List Byte).length ≤ 1 := by split <;> decide
  simp only [encodeMem, List.length_append, List.length_cons]
  omega

theorem encodeRm_length (op : Byte) (r : Bool) (reg : BitVec 3) (o : RmOperand) :
    3 ≤ (encodeRm op r reg o).length ∧ (encodeRm op r reg o).length ≤ 12 := by
  cases o with
  | reg q =>
    have := rexPrefix_length r false q.hi
    simp only [encodeRm, List.length_append, List.length_cons, List.length_nil]
    omega
  | mem m => exact encodeMem_length [] (by decide) op r reg m

theorem encodeCr_length (op : Byte) (cr : BitVec 4) (r : Reg) :
    3 ≤ (encodeCr op cr r).length ∧ (encodeCr op cr r).length ≤ 12 := by
  have := rexPrefix_length (cr.getLsbD 3) false r.hi
  simp only [encodeCr, List.length_append, List.length_cons, List.length_nil]
  omega

end Sys2Proof
end

