-- ==== Sys2Proof/Laws/Table.lean ====
section
/-! SUPPORT. The laws of the sparse tables: reading after a write, and that every operation keeps the rising order. -/

namespace Sys2Proof.Machine

variable {β : Type}

theorem Table.find?_insert_self (k : Nat) (v : β) (t : List (Nat × β)) :
    Table.find? k (Table.insert k v t) = some v := by
  induction t with
  | nil => simp [Table.insert, Table.find?]
  | cons c t ih =>
    obtain ⟨j, w⟩ := c
    simp only [Table.insert]
    split
    · simp [Table.find?]
    · split
      · simp [Table.find?]
      · rename_i h; simp [Table.find?, ih, Ne.symm h]

theorem Table.find?_insert_of_ne {j k : Nat} (h : j ≠ k) (v : β) (t : List (Nat × β)) :
    Table.find? j (Table.insert k v t) = Table.find? j t := by
  induction t with
  | nil => simp [Table.insert, Table.find?, Ne.symm h]
  | cons c t ih =>
    obtain ⟨i, w⟩ := c
    simp only [Table.insert]
    split
    · simp [Table.find?, Ne.symm h]
    · split
      · rename_i e; subst e; simp [Table.find?, Ne.symm h]
      · simp [Table.find?, ih]

theorem Table.find?_insert (j k : Nat) (v : β) (t : List (Nat × β)) :
    Table.find? j (Table.insert k v t) = if j = k then some v else Table.find? j t := by
  split
  · rename_i h; rw [h, Table.find?_insert_self]
  · rename_i h; exact Table.find?_insert_of_ne h v t

theorem Table.find?_erase (j k : Nat) (t : List (Nat × β)) :
    Table.find? j (Table.erase k t) = if j = k then none else Table.find? j t := by
  induction t with
  | nil => simp [Table.erase, Table.find?]
  | cons c t ih =>
    obtain ⟨i, w⟩ := c
    simp only [Table.erase]
    split
    · rename_i e
      rw [ih]
      split
      · rfl
      · rename_i h; rw [Table.find?, if_neg (by omega)]
    · rename_i e
      rw [Table.find?, Table.find?, ih]
      split
      · rename_i h; rw [if_neg (by omega)]
      · rfl

theorem Table.find?_mapVal (f : Nat → β → β) (k : Nat) (t : List (Nat × β)) :
    Table.find? k (Table.mapVal f t) = (Table.find? k t).map (f k) := by
  induction t with
  | nil => rfl
  | cons c t ih =>
    obtain ⟨j, w⟩ := c
    simp only [Table.mapVal, Table.find?, ih]
    split
    · rename_i h; rw [h]; rfl
    · rfl

theorem Table.above_mono {j k : Nat} (h : j ≤ k) {t : List (Nat × β)} (a : Table.above k t = true) :
    Table.above j t = true := by
  induction t with
  | nil => rfl
  | cons c t ih =>
    obtain ⟨i, w⟩ := c
    simp only [Table.above, Bool.and_eq_true, decide_eq_true_eq] at *
    exact ⟨by omega, ih a.2⟩

theorem Table.above_insert {j k : Nat} (h : j < k) (v : β) {t : List (Nat × β)} (a : Table.above j t = true) :
    Table.above j (Table.insert k v t) = true := by
  induction t with
  | nil => simp [Table.insert, Table.above, h]
  | cons c t ih =>
    obtain ⟨i, w⟩ := c
    simp only [Table.above, Bool.and_eq_true, decide_eq_true_eq] at a
    simp only [Table.insert]
    split
    · simp [Table.above, h, a]
    · split
      · simp [Table.above, h, a.2]
      · simp [Table.above, a.1, ih a.2]

theorem Table.above_erase {j k : Nat} {t : List (Nat × β)} (a : Table.above j t = true) :
    Table.above j (Table.erase k t) = true := by
  induction t with
  | nil => rfl
  | cons c t ih =>
    obtain ⟨i, w⟩ := c
    simp only [Table.above, Bool.and_eq_true, decide_eq_true_eq] at a
    simp only [Table.erase]
    split
    · exact ih a.2
    · simp [Table.above, a.1, ih a.2]

theorem Table.above_mapVal (f : Nat → β → β) (j : Nat) (t : List (Nat × β)) :
    Table.above j (Table.mapVal f t) = Table.above j t := by
  induction t with
  | nil => rfl
  | cons c t ih => simp [Table.mapVal, Table.above, ih]

theorem Table.sorted_insert (k : Nat) (v : β) {t : List (Nat × β)} (h : Table.sorted t = true) :
    Table.sorted (Table.insert k v t) = true := by
  induction t with
  | nil => rfl
  | cons c t ih =>
    obtain ⟨j, w⟩ := c
    simp only [Table.sorted, Bool.and_eq_true] at h
    simp only [Table.insert]
    split
    · rename_i lt
      simp [Table.sorted, Table.above, lt, h.1, h.2, Table.above_mono (Nat.le_of_lt lt) h.1]
    · split
      · rename_i e; subst e; simp [Table.sorted, h.1, h.2]
      · simp [Table.sorted, ih h.2, Table.above_insert (show j < k by omega) v h.1]

theorem Table.sorted_erase (k : Nat) {t : List (Nat × β)} (h : Table.sorted t = true) :
    Table.sorted (Table.erase k t) = true := by
  induction t with
  | nil => rfl
  | cons c t ih =>
    obtain ⟨j, w⟩ := c
    simp only [Table.sorted, Bool.and_eq_true] at h
    simp only [Table.erase]
    split
    · exact ih h.2
    · simp [Table.sorted, ih h.2, Table.above_erase h.1]

theorem Table.sorted_mapVal (f : Nat → β → β) (t : List (Nat × β)) :
    Table.sorted (Table.mapVal f t) = Table.sorted t := by
  induction t with
  | nil => rfl
  | cons c t ih => simp [Table.mapVal, Table.sorted, Table.above_mapVal, ih]

end Sys2Proof.Machine
end

