-- ==== Sys2Proof/Laws/Memory.lean ====
section
/-! SUPPORT. The laws of physical memory: reading after a write, and that every operation keeps the canonical form. -/

namespace Sys2Proof.Machine

theorem Memory.read_write (m : Memory) (a k : Nat) (b : Byte) :
    Memory.read (Memory.write k b m) a = if a = k then b else Memory.read m a := by
  unfold Memory.read Memory.write
  split
  · rename_i h
    rw [Table.find?_erase]
    split
    · exact h.symm
    · rfl
  · rw [Table.find?_insert]
    split <;> rfl

theorem Memory.read_write_self (m : Memory) (a : Nat) (b : Byte) : Memory.read (Memory.write a b m) a = b := by
  simp [Memory.read_write]

theorem Memory.read_write_of_ne (m : Memory) {a k : Nat} (h : a ≠ k) (b : Byte) :
    Memory.read (Memory.write k b m) a = Memory.read m a := by
  simp [Memory.read_write, h]

/-- A write of many bytes leaves every other byte. -/
theorem Memory.read_writeAll_of_not_mem (l : List (Nat × Byte)) (m : Memory) (a : Nat) (h : ∀ c ∈ l, c.1 ≠ a) :
    Memory.read (Memory.writeAll l m) a = Memory.read m a := by
  induction l generalizing m with
  | nil => rfl
  | cons c t ih =>
    obtain ⟨k, b⟩ := c
    simp only [Memory.writeAll]
    rw [ih _ (fun c hc => h c (List.mem_cons_of_mem _ hc)),
      Memory.read_write_of_ne _ (Ne.symm (h (k, b) List.mem_cons_self))]

theorem Memory.all_ne_zero_insert {k : Nat} {b : Byte} (hb : b ≠ 0) {m : Memory}
    (h : m.all (fun c => decide (c.2 ≠ 0)) = true) :
    (Table.insert k b m).all (fun c => decide (c.2 ≠ 0)) = true := by
  induction m with
  | nil => simpa [Table.insert] using hb
  | cons c t ih =>
    obtain ⟨j, w⟩ := c
    simp only [List.all_cons, Bool.and_eq_true] at h
    simp only [Table.insert]
    split
    · simp only [List.all_cons, Bool.and_eq_true]; exact ⟨by simpa using hb, h.1, h.2⟩
    · split
      · simp only [List.all_cons, Bool.and_eq_true]; exact ⟨by simpa using hb, h.2⟩
      · simp only [List.all_cons, Bool.and_eq_true]; exact ⟨h.1, ih h.2⟩

theorem Memory.all_ne_zero_erase {k : Nat} {m : Memory} (h : m.all (fun c => decide (c.2 ≠ 0)) = true) :
    (Table.erase k m).all (fun c => decide (c.2 ≠ 0)) = true := by
  induction m with
  | nil => rfl
  | cons c t ih =>
    obtain ⟨j, w⟩ := c
    simp only [List.all_cons, Bool.and_eq_true] at h
    simp only [Table.erase]
    split
    · exact ih h.2
    · simp only [List.all_cons, Bool.and_eq_true]; exact ⟨h.1, ih h.2⟩

theorem Memory.wf_write (a : Nat) (b : Byte) {m : Memory} (h : Memory.wf m = true) :
    Memory.wf (Memory.write a b m) = true := by
  simp only [Memory.wf, Bool.and_eq_true] at h ⊢
  unfold Memory.write
  split
  · exact ⟨Table.sorted_erase a h.1, Memory.all_ne_zero_erase h.2⟩
  · rename_i hb; exact ⟨Table.sorted_insert a b h.1, Memory.all_ne_zero_insert hb h.2⟩

theorem Memory.wf_writeAll (l : List (Nat × Byte)) {m : Memory} (h : Memory.wf m = true) :
    Memory.wf (Memory.writeAll l m) = true := by
  induction l generalizing m with
  | nil => exact h
  | cons c t ih => exact ih (Memory.wf_write c.1 c.2 h)

theorem Memory.wf_storeBytes (cfg : Config) (l : List (Nat × Byte)) {m : Memory} (h : Memory.wf m = true) :
    Memory.wf (storeBytes cfg l m) = true := Memory.wf_writeAll _ h

theorem Memory.wf_resetImages (cfg : Config) (d : Nat) (l : List Word) {m : Memory} (h : Memory.wf m = true) :
    Memory.wf (resetImages cfg d l m) = true := by
  induction l generalizing m with
  | nil => exact h
  | cons p t ih => exact ih (Memory.wf_storeBytes _ _ h)

theorem placeBytes_wf (bs : List Byte) (lin : Word) (s : State) (h : Memory.wf s.mem = true) :
    Memory.wf (placeBytes bs lin s).mem = true := by
  induction bs generalizing lin s with
  | nil => exact h
  | cons b t ih =>
    simp only [placeBytes]
    split
    · exact ih _ _ h
    · exact ih _ _ (Memory.wf_write _ _ h)

theorem reset_memory_wf : Memory.wf State.reset.mem = true := rfl

end Sys2Proof.Machine
end

