-- ==== Sys2Proof/Laws/State.lean ====
section
/-! SUPPORT. What each named update of State does to each field. -/

namespace Sys2Proof.Machine

/-! ## complete -/

@[simp] theorem complete_cfg (s : State) : (complete s).cfg = s.cfg := rfl
@[simp] theorem complete_vmxMode (s : State) : (complete s).vmxMode = s.vmxMode := rfl
@[simp] theorem complete_cr0 (s : State) : (complete s).cr0 = s.cr0 := rfl
@[simp] theorem complete_cr3 (s : State) : (complete s).cr3 = s.cr3 := rfl
@[simp] theorem complete_cr4 (s : State) : (complete s).cr4 = s.cr4 := rfl
@[simp] theorem complete_cr2 (s : State) : (complete s).cr2 = s.cr2 := rfl
@[simp] theorem complete_cr8 (s : State) : (complete s).cr8 = s.cr8 := rfl
@[simp] theorem complete_dr7 (s : State) : (complete s).dr7 = s.dr7 := rfl
@[simp] theorem complete_gprs (s : State) : (complete s).gprs = s.gprs := rfl
@[simp] theorem complete_rip (s : State) : (complete s).rip = s.nextRip := rfl
@[simp] theorem complete_nextRip (s : State) : (complete s).nextRip = s.nextRip := rfl
@[simp] theorem complete_rflags (s : State) : (complete s).rflags = s.rflags := rfl
@[simp] theorem complete_segs (s : State) : (complete s).segs = s.segs := rfl
@[simp] theorem complete_gdtr (s : State) : (complete s).gdtr = s.gdtr := rfl
@[simp] theorem complete_idtr (s : State) : (complete s).idtr = s.idtr := rfl
@[simp] theorem complete_debugctl (s : State) : (complete s).debugctl = s.debugctl := rfl
@[simp] theorem complete_sysenterCs (s : State) : (complete s).sysenterCs = s.sysenterCs := rfl
@[simp] theorem complete_sysenterEsp (s : State) : (complete s).sysenterEsp = s.sysenterEsp := rfl
@[simp] theorem complete_sysenterEip (s : State) : (complete s).sysenterEip = s.sysenterEip := rfl
@[simp] theorem complete_perfGlobalCtrl (s : State) : (complete s).perfGlobalCtrl = s.perfGlobalCtrl := rfl
@[simp] theorem complete_pat (s : State) : (complete s).pat = s.pat := rfl
@[simp] theorem complete_efer (s : State) : (complete s).efer = s.efer := rfl
@[simp] theorem complete_otherMsrs (s : State) : (complete s).otherMsrs = s.otherMsrs := rfl
@[simp] theorem complete_smbase (s : State) : (complete s).smbase = s.smbase := rfl
@[simp] theorem complete_featureControl (s : State) : (complete s).featureControl = s.featureControl := rfl
@[simp] theorem complete_smxOp (s : State) : (complete s).smxOp = s.smxOp := rfl
@[simp] theorem complete_a20m (s : State) : (complete s).a20m = s.a20m := rfl
@[simp] theorem complete_activity (s : State) : (complete s).activity = s.activity := rfl
@[simp] theorem complete_mwaitIdle (s : State) : (complete s).mwaitIdle = s.mwaitIdle := rfl
@[simp] theorem complete_blockingBySti (s : State) : (complete s).blockingBySti = false := rfl
@[simp] theorem complete_interruptibilityRest (s : State) :
    (complete s).interruptibilityRest = s.interruptibilityRest := rfl
@[simp] theorem complete_currentVmcs (s : State) : (complete s).currentVmcs = s.currentVmcs := rfl
@[simp] theorem complete_active (s : State) : (complete s).active = s.active := rfl
@[simp] theorem complete_vmxonPtr (s : State) : (complete s).vmxonPtr = s.vmxonPtr := rfl
@[simp] theorem complete_initPending (s : State) : (complete s).initPending = s.initPending := rfl
@[simp] theorem complete_vmcss (s : State) : (complete s).vmcss = s.vmcss := rfl
@[simp] theorem complete_mem (s : State) : (complete s).mem = s.mem := rfl
@[simp] theorem complete_raised (s : State) : (complete s).raised = s.raised := rfl
@[simp] theorem complete_failed (s : State) : (complete s).failed = false := rfl
@[simp] theorem complete_schedule (s : State) : (complete s).schedule = s.schedule := rfl
@[simp] theorem complete_entryVerdicts (s : State) : (complete s).entryVerdicts = s.entryVerdicts := rfl
@[simp] theorem complete_draws (s : State) : (complete s).draws = s.draws := rfl

/-! ## setGpr -/

@[simp] theorem setGpr_cfg (r : Reg) (v : Word) (s : State) : (setGpr r v s).cfg = s.cfg := rfl
@[simp] theorem setGpr_vmxMode (r : Reg) (v : Word) (s : State) : (setGpr r v s).vmxMode = s.vmxMode := rfl
@[simp] theorem setGpr_cr0 (r : Reg) (v : Word) (s : State) : (setGpr r v s).cr0 = s.cr0 := rfl
@[simp] theorem setGpr_cr3 (r : Reg) (v : Word) (s : State) : (setGpr r v s).cr3 = s.cr3 := rfl
@[simp] theorem setGpr_cr4 (r : Reg) (v : Word) (s : State) : (setGpr r v s).cr4 = s.cr4 := rfl
@[simp] theorem setGpr_cr2 (r : Reg) (v : Word) (s : State) : (setGpr r v s).cr2 = s.cr2 := rfl
@[simp] theorem setGpr_cr8 (r : Reg) (v : Word) (s : State) : (setGpr r v s).cr8 = s.cr8 := rfl
@[simp] theorem setGpr_dr7 (r : Reg) (v : Word) (s : State) : (setGpr r v s).dr7 = s.dr7 := rfl
@[simp] theorem setGpr_gprs (r : Reg) (v : Word) (s : State) : (setGpr r v s).gprs = s.gprs.set r v := rfl
@[simp] theorem setGpr_rip (r : Reg) (v : Word) (s : State) : (setGpr r v s).rip = s.rip := rfl
@[simp] theorem setGpr_nextRip (r : Reg) (v : Word) (s : State) : (setGpr r v s).nextRip = s.nextRip := rfl
@[simp] theorem setGpr_rflags (r : Reg) (v : Word) (s : State) : (setGpr r v s).rflags = s.rflags := rfl
@[simp] theorem setGpr_segs (r : Reg) (v : Word) (s : State) : (setGpr r v s).segs = s.segs := rfl
@[simp] theorem setGpr_gdtr (r : Reg) (v : Word) (s : State) : (setGpr r v s).gdtr = s.gdtr := rfl
@[simp] theorem setGpr_idtr (r : Reg) (v : Word) (s : State) : (setGpr r v s).idtr = s.idtr := rfl
@[simp] theorem setGpr_debugctl (r : Reg) (v : Word) (s : State) : (setGpr r v s).debugctl = s.debugctl := rfl
@[simp] theorem setGpr_sysenterCs (r : Reg) (v : Word) (s : State) : (setGpr r v s).sysenterCs = s.sysenterCs := rfl
@[simp] theorem setGpr_sysenterEsp (r : Reg) (v : Word) (s : State) :
    (setGpr r v s).sysenterEsp = s.sysenterEsp := rfl
@[simp] theorem setGpr_sysenterEip (r : Reg) (v : Word) (s : State) :
    (setGpr r v s).sysenterEip = s.sysenterEip := rfl
@[simp] theorem setGpr_perfGlobalCtrl (r : Reg) (v : Word) (s : State) :
    (setGpr r v s).perfGlobalCtrl = s.perfGlobalCtrl := rfl
@[simp] theorem setGpr_pat (r : Reg) (v : Word) (s : State) : (setGpr r v s).pat = s.pat := rfl
@[simp] theorem setGpr_efer (r : Reg) (v : Word) (s : State) : (setGpr r v s).efer = s.efer := rfl
@[simp] theorem setGpr_otherMsrs (r : Reg) (v : Word) (s : State) : (setGpr r v s).otherMsrs = s.otherMsrs := rfl
@[simp] theorem setGpr_smbase (r : Reg) (v : Word) (s : State) : (setGpr r v s).smbase = s.smbase := rfl
@[simp] theorem setGpr_featureControl (r : Reg) (v : Word) (s : State) :
    (setGpr r v s).featureControl = s.featureControl := rfl
@[simp] theorem setGpr_smxOp (r : Reg) (v : Word) (s : State) : (setGpr r v s).smxOp = s.smxOp := rfl
@[simp] theorem setGpr_a20m (r : Reg) (v : Word) (s : State) : (setGpr r v s).a20m = s.a20m := rfl
@[simp] theorem setGpr_activity (r : Reg) (v : Word) (s : State) : (setGpr r v s).activity = s.activity := rfl
@[simp] theorem setGpr_mwaitIdle (r : Reg) (v : Word) (s : State) : (setGpr r v s).mwaitIdle = s.mwaitIdle := rfl
@[simp] theorem setGpr_blockingBySti (r : Reg) (v : Word) (s : State) :
    (setGpr r v s).blockingBySti = s.blockingBySti := rfl
@[simp] theorem setGpr_interruptibilityRest (r : Reg) (v : Word) (s : State) :
    (setGpr r v s).interruptibilityRest = s.interruptibilityRest := rfl
@[simp] theorem setGpr_currentVmcs (r : Reg) (v : Word) (s : State) :
    (setGpr r v s).currentVmcs = s.currentVmcs := rfl
@[simp] theorem setGpr_active (r : Reg) (v : Word) (s : State) : (setGpr r v s).active = s.active := rfl
@[simp] theorem setGpr_vmxonPtr (r : Reg) (v : Word) (s : State) : (setGpr r v s).vmxonPtr = s.vmxonPtr := rfl
@[simp] theorem setGpr_initPending (r : Reg) (v : Word) (s : State) :
    (setGpr r v s).initPending = s.initPending := rfl
@[simp] theorem setGpr_vmcss (r : Reg) (v : Word) (s : State) : (setGpr r v s).vmcss = s.vmcss := rfl
@[simp] theorem setGpr_mem (r : Reg) (v : Word) (s : State) : (setGpr r v s).mem = s.mem := rfl
@[simp] theorem setGpr_raised (r : Reg) (v : Word) (s : State) : (setGpr r v s).raised = s.raised := rfl
@[simp] theorem setGpr_failed (r : Reg) (v : Word) (s : State) : (setGpr r v s).failed = s.failed := rfl
@[simp] theorem setGpr_schedule (r : Reg) (v : Word) (s : State) : (setGpr r v s).schedule = s.schedule := rfl
@[simp] theorem setGpr_entryVerdicts (r : Reg) (v : Word) (s : State) :
    (setGpr r v s).entryVerdicts = s.entryVerdicts := rfl
@[simp] theorem setGpr_draws (r : Reg) (v : Word) (s : State) : (setGpr r v s).draws = s.draws := rfl

/-! ## putVmcs -/

@[simp] theorem putVmcs_cfg (p : Word) (v : Vmcs) (s : State) : (putVmcs p v s).cfg = s.cfg := rfl
@[simp] theorem putVmcs_vmxMode (p : Word) (v : Vmcs) (s : State) : (putVmcs p v s).vmxMode = s.vmxMode := rfl
@[simp] theorem putVmcs_cr0 (p : Word) (v : Vmcs) (s : State) : (putVmcs p v s).cr0 = s.cr0 := rfl
@[simp] theorem putVmcs_cr3 (p : Word) (v : Vmcs) (s : State) : (putVmcs p v s).cr3 = s.cr3 := rfl
@[simp] theorem putVmcs_cr4 (p : Word) (v : Vmcs) (s : State) : (putVmcs p v s).cr4 = s.cr4 := rfl
@[simp] theorem putVmcs_cr2 (p : Word) (v : Vmcs) (s : State) : (putVmcs p v s).cr2 = s.cr2 := rfl
@[simp] theorem putVmcs_cr8 (p : Word) (v : Vmcs) (s : State) : (putVmcs p v s).cr8 = s.cr8 := rfl
@[simp] theorem putVmcs_dr7 (p : Word) (v : Vmcs) (s : State) : (putVmcs p v s).dr7 = s.dr7 := rfl
@[simp] theorem putVmcs_gprs (p : Word) (v : Vmcs) (s : State) : (putVmcs p v s).gprs = s.gprs := rfl
@[simp] theorem putVmcs_rip (p : Word) (v : Vmcs) (s : State) : (putVmcs p v s).rip = s.rip := rfl
@[simp] theorem putVmcs_nextRip (p : Word) (v : Vmcs) (s : State) : (putVmcs p v s).nextRip = s.nextRip := rfl
@[simp] theorem putVmcs_rflags (p : Word) (v : Vmcs) (s : State) : (putVmcs p v s).rflags = s.rflags := rfl
@[simp] theorem putVmcs_segs (p : Word) (v : Vmcs) (s : State) : (putVmcs p v s).segs = s.segs := rfl
@[simp] theorem putVmcs_gdtr (p : Word) (v : Vmcs) (s : State) : (putVmcs p v s).gdtr = s.gdtr := rfl
@[simp] theorem putVmcs_idtr (p : Word) (v : Vmcs) (s : State) : (putVmcs p v s).idtr = s.idtr := rfl
@[simp] theorem putVmcs_debugctl (p : Word) (v : Vmcs) (s : State) : (putVmcs p v s).debugctl = s.debugctl := rfl
@[simp] theorem putVmcs_sysenterCs (p : Word) (v : Vmcs) (s : State) :
    (putVmcs p v s).sysenterCs = s.sysenterCs := rfl
@[simp] theorem putVmcs_sysenterEsp (p : Word) (v : Vmcs) (s : State) :
    (putVmcs p v s).sysenterEsp = s.sysenterEsp := rfl
@[simp] theorem putVmcs_sysenterEip (p : Word) (v : Vmcs) (s : State) :
    (putVmcs p v s).sysenterEip = s.sysenterEip := rfl
@[simp] theorem putVmcs_perfGlobalCtrl (p : Word) (v : Vmcs) (s : State) :
    (putVmcs p v s).perfGlobalCtrl = s.perfGlobalCtrl := rfl
@[simp] theorem putVmcs_pat (p : Word) (v : Vmcs) (s : State) : (putVmcs p v s).pat = s.pat := rfl
@[simp] theorem putVmcs_efer (p : Word) (v : Vmcs) (s : State) : (putVmcs p v s).efer = s.efer := rfl
@[simp] theorem putVmcs_otherMsrs (p : Word) (v : Vmcs) (s : State) : (putVmcs p v s).otherMsrs = s.otherMsrs := rfl
@[simp] theorem putVmcs_smbase (p : Word) (v : Vmcs) (s : State) : (putVmcs p v s).smbase = s.smbase := rfl
@[simp] theorem putVmcs_featureControl (p : Word) (v : Vmcs) (s : State) :
    (putVmcs p v s).featureControl = s.featureControl := rfl
@[simp] theorem putVmcs_smxOp (p : Word) (v : Vmcs) (s : State) : (putVmcs p v s).smxOp = s.smxOp := rfl
@[simp] theorem putVmcs_a20m (p : Word) (v : Vmcs) (s : State) : (putVmcs p v s).a20m = s.a20m := rfl
@[simp] theorem putVmcs_activity (p : Word) (v : Vmcs) (s : State) : (putVmcs p v s).activity = s.activity := rfl
@[simp] theorem putVmcs_mwaitIdle (p : Word) (v : Vmcs) (s : State) : (putVmcs p v s).mwaitIdle = s.mwaitIdle := rfl
@[simp] theorem putVmcs_blockingBySti (p : Word) (v : Vmcs) (s : State) :
    (putVmcs p v s).blockingBySti = s.blockingBySti := rfl
@[simp] theorem putVmcs_interruptibilityRest (p : Word) (v : Vmcs) (s : State) :
    (putVmcs p v s).interruptibilityRest = s.interruptibilityRest := rfl
@[simp] theorem putVmcs_currentVmcs (p : Word) (v : Vmcs) (s : State) :
    (putVmcs p v s).currentVmcs = s.currentVmcs := rfl
@[simp] theorem putVmcs_active (p : Word) (v : Vmcs) (s : State) : (putVmcs p v s).active = s.active := rfl
@[simp] theorem putVmcs_vmxonPtr (p : Word) (v : Vmcs) (s : State) : (putVmcs p v s).vmxonPtr = s.vmxonPtr := rfl
@[simp] theorem putVmcs_initPending (p : Word) (v : Vmcs) (s : State) :
    (putVmcs p v s).initPending = s.initPending := rfl
@[simp] theorem putVmcs_vmcss (p : Word) (v : Vmcs) (s : State) :
    (putVmcs p v s).vmcss = Table.insert p.toNat v s.vmcss := rfl
@[simp] theorem putVmcs_mem (p : Word) (v : Vmcs) (s : State) : (putVmcs p v s).mem = s.mem := rfl
@[simp] theorem putVmcs_raised (p : Word) (v : Vmcs) (s : State) : (putVmcs p v s).raised = s.raised := rfl
@[simp] theorem putVmcs_failed (p : Word) (v : Vmcs) (s : State) : (putVmcs p v s).failed = s.failed := rfl
@[simp] theorem putVmcs_schedule (p : Word) (v : Vmcs) (s : State) : (putVmcs p v s).schedule = s.schedule := rfl
@[simp] theorem putVmcs_entryVerdicts (p : Word) (v : Vmcs) (s : State) :
    (putVmcs p v s).entryVerdicts = s.entryVerdicts := rfl
@[simp] theorem putVmcs_draws (p : Word) (v : Vmcs) (s : State) : (putVmcs p v s).draws = s.draws := rfl

/-! ## freshen -/

@[simp] theorem freshen_cfg (s : State) : (freshen s).cfg = s.cfg := rfl
@[simp] theorem freshen_vmxMode (s : State) : (freshen s).vmxMode = s.vmxMode := rfl
@[simp] theorem freshen_cr0 (s : State) : (freshen s).cr0 = s.cr0 := rfl
@[simp] theorem freshen_cr3 (s : State) : (freshen s).cr3 = s.cr3 := rfl
@[simp] theorem freshen_cr4 (s : State) : (freshen s).cr4 = s.cr4 := rfl
@[simp] theorem freshen_cr2 (s : State) : (freshen s).cr2 = s.cr2 := rfl
@[simp] theorem freshen_cr8 (s : State) : (freshen s).cr8 = s.cr8 := rfl
@[simp] theorem freshen_dr7 (s : State) : (freshen s).dr7 = s.dr7 := rfl
@[simp] theorem freshen_gprs (s : State) : (freshen s).gprs = s.gprs := rfl
@[simp] theorem freshen_rip (s : State) : (freshen s).rip = s.rip := rfl
@[simp] theorem freshen_nextRip (s : State) : (freshen s).nextRip = s.nextRip := rfl
@[simp] theorem freshen_rflags (s : State) : (freshen s).rflags = s.rflags := rfl
@[simp] theorem freshen_segs (s : State) : (freshen s).segs = s.segs := rfl
@[simp] theorem freshen_gdtr (s : State) : (freshen s).gdtr = s.gdtr := rfl
@[simp] theorem freshen_idtr (s : State) : (freshen s).idtr = s.idtr := rfl
@[simp] theorem freshen_debugctl (s : State) : (freshen s).debugctl = s.debugctl := rfl
@[simp] theorem freshen_sysenterCs (s : State) : (freshen s).sysenterCs = s.sysenterCs := rfl
@[simp] theorem freshen_sysenterEsp (s : State) : (freshen s).sysenterEsp = s.sysenterEsp := rfl
@[simp] theorem freshen_sysenterEip (s : State) : (freshen s).sysenterEip = s.sysenterEip := rfl
@[simp] theorem freshen_perfGlobalCtrl (s : State) : (freshen s).perfGlobalCtrl = s.perfGlobalCtrl := rfl
@[simp] theorem freshen_pat (s : State) : (freshen s).pat = s.pat := rfl
@[simp] theorem freshen_efer (s : State) : (freshen s).efer = s.efer := rfl
@[simp] theorem freshen_otherMsrs (s : State) : (freshen s).otherMsrs = s.otherMsrs := rfl
@[simp] theorem freshen_smbase (s : State) : (freshen s).smbase = s.smbase := rfl
@[simp] theorem freshen_featureControl (s : State) : (freshen s).featureControl = s.featureControl := rfl
@[simp] theorem freshen_smxOp (s : State) : (freshen s).smxOp = s.smxOp := rfl
@[simp] theorem freshen_a20m (s : State) : (freshen s).a20m = s.a20m := rfl
@[simp] theorem freshen_activity (s : State) : (freshen s).activity = s.activity := rfl
@[simp] theorem freshen_mwaitIdle (s : State) : (freshen s).mwaitIdle = s.mwaitIdle := rfl
@[simp] theorem freshen_blockingBySti (s : State) : (freshen s).blockingBySti = s.blockingBySti := rfl
@[simp] theorem freshen_interruptibilityRest (s : State) :
    (freshen s).interruptibilityRest = s.interruptibilityRest := rfl
@[simp] theorem freshen_currentVmcs (s : State) : (freshen s).currentVmcs = s.currentVmcs := rfl
@[simp] theorem freshen_active (s : State) : (freshen s).active = s.active := rfl
@[simp] theorem freshen_vmxonPtr (s : State) : (freshen s).vmxonPtr = s.vmxonPtr := rfl
@[simp] theorem freshen_initPending (s : State) : (freshen s).initPending = s.initPending := rfl
@[simp] theorem freshen_vmcss (s : State) : (freshen s).vmcss = s.vmcss := rfl
@[simp] theorem freshen_mem (s : State) : (freshen s).mem = s.mem := rfl
@[simp] theorem freshen_raised (s : State) : (freshen s).raised = s.raised := rfl
@[simp] theorem freshen_failed (s : State) : (freshen s).failed = s.failed := rfl
@[simp] theorem freshen_schedule (s : State) : (freshen s).schedule = s.schedule := rfl
@[simp] theorem freshen_entryVerdicts (s : State) : (freshen s).entryVerdicts = s.entryVerdicts := rfl
@[simp] theorem freshen_draws (s : State) : (freshen s).draws = s.draws + 1 := rfl

/-! ## withNext -/

@[simp] theorem withNext_cfg (n : Nat) (s : State) : (withNext n s).cfg = s.cfg := rfl
@[simp] theorem withNext_vmxMode (n : Nat) (s : State) : (withNext n s).vmxMode = s.vmxMode := rfl
@[simp] theorem withNext_cr0 (n : Nat) (s : State) : (withNext n s).cr0 = s.cr0 := rfl
@[simp] theorem withNext_cr3 (n : Nat) (s : State) : (withNext n s).cr3 = s.cr3 := rfl
@[simp] theorem withNext_cr4 (n : Nat) (s : State) : (withNext n s).cr4 = s.cr4 := rfl
@[simp] theorem withNext_cr2 (n : Nat) (s : State) : (withNext n s).cr2 = s.cr2 := rfl
@[simp] theorem withNext_cr8 (n : Nat) (s : State) : (withNext n s).cr8 = s.cr8 := rfl
@[simp] theorem withNext_dr7 (n : Nat) (s : State) : (withNext n s).dr7 = s.dr7 := rfl
@[simp] theorem withNext_gprs (n : Nat) (s : State) : (withNext n s).gprs = s.gprs := rfl
@[simp] theorem withNext_rip (n : Nat) (s : State) : (withNext n s).rip = s.rip := rfl
@[simp] theorem withNext_nextRip (n : Nat) (s : State) :
    (withNext n s).nextRip = wrapMode s (s.rip + BitVec.ofNat 64 n) := rfl
@[simp] theorem withNext_rflags (n : Nat) (s : State) : (withNext n s).rflags = s.rflags := rfl
@[simp] theorem withNext_segs (n : Nat) (s : State) : (withNext n s).segs = s.segs := rfl
@[simp] theorem withNext_gdtr (n : Nat) (s : State) : (withNext n s).gdtr = s.gdtr := rfl
@[simp] theorem withNext_idtr (n : Nat) (s : State) : (withNext n s).idtr = s.idtr := rfl
@[simp] theorem withNext_debugctl (n : Nat) (s : State) : (withNext n s).debugctl = s.debugctl := rfl
@[simp] theorem withNext_sysenterCs (n : Nat) (s : State) : (withNext n s).sysenterCs = s.sysenterCs := rfl
@[simp] theorem withNext_sysenterEsp (n : Nat) (s : State) : (withNext n s).sysenterEsp = s.sysenterEsp := rfl
@[simp] theorem withNext_sysenterEip (n : Nat) (s : State) : (withNext n s).sysenterEip = s.sysenterEip := rfl
@[simp] theorem withNext_perfGlobalCtrl (n : Nat) (s : State) :
    (withNext n s).perfGlobalCtrl = s.perfGlobalCtrl := rfl
@[simp] theorem withNext_pat (n : Nat) (s : State) : (withNext n s).pat = s.pat := rfl
@[simp] theorem withNext_efer (n : Nat) (s : State) : (withNext n s).efer = s.efer := rfl
@[simp] theorem withNext_otherMsrs (n : Nat) (s : State) : (withNext n s).otherMsrs = s.otherMsrs := rfl
@[simp] theorem withNext_smbase (n : Nat) (s : State) : (withNext n s).smbase = s.smbase := rfl
@[simp] theorem withNext_featureControl (n : Nat) (s : State) :
    (withNext n s).featureControl = s.featureControl := rfl
@[simp] theorem withNext_smxOp (n : Nat) (s : State) : (withNext n s).smxOp = s.smxOp := rfl
@[simp] theorem withNext_a20m (n : Nat) (s : State) : (withNext n s).a20m = s.a20m := rfl
@[simp] theorem withNext_activity (n : Nat) (s : State) : (withNext n s).activity = s.activity := rfl
@[simp] theorem withNext_mwaitIdle (n : Nat) (s : State) : (withNext n s).mwaitIdle = s.mwaitIdle := rfl
@[simp] theorem withNext_blockingBySti (n : Nat) (s : State) : (withNext n s).blockingBySti = s.blockingBySti := rfl
@[simp] theorem withNext_interruptibilityRest (n : Nat) (s : State) :
    (withNext n s).interruptibilityRest = s.interruptibilityRest := rfl
@[simp] theorem withNext_currentVmcs (n : Nat) (s : State) : (withNext n s).currentVmcs = s.currentVmcs := rfl
@[simp] theorem withNext_active (n : Nat) (s : State) : (withNext n s).active = s.active := rfl
@[simp] theorem withNext_vmxonPtr (n : Nat) (s : State) : (withNext n s).vmxonPtr = s.vmxonPtr := rfl
@[simp] theorem withNext_initPending (n : Nat) (s : State) : (withNext n s).initPending = s.initPending := rfl
@[simp] theorem withNext_vmcss (n : Nat) (s : State) : (withNext n s).vmcss = s.vmcss := rfl
@[simp] theorem withNext_mem (n : Nat) (s : State) : (withNext n s).mem = s.mem := rfl
@[simp] theorem withNext_raised (n : Nat) (s : State) : (withNext n s).raised = s.raised := rfl
@[simp] theorem withNext_failed (n : Nat) (s : State) : (withNext n s).failed = s.failed := rfl
@[simp] theorem withNext_schedule (n : Nat) (s : State) : (withNext n s).schedule = s.schedule := rfl
@[simp] theorem withNext_entryVerdicts (n : Nat) (s : State) : (withNext n s).entryVerdicts = s.entryVerdicts := rfl
@[simp] theorem withNext_draws (n : Nat) (s : State) : (withNext n s).draws = s.draws := rfl

/-! ## storeAt -/

@[simp] theorem storeAt_cfg (l : List Nat) (b : List Byte) (s : State) : (storeAt l b s).cfg = s.cfg := rfl
@[simp] theorem storeAt_vmxMode (l : List Nat) (b : List Byte) (s : State) :
    (storeAt l b s).vmxMode = s.vmxMode := rfl
@[simp] theorem storeAt_cr0 (l : List Nat) (b : List Byte) (s : State) : (storeAt l b s).cr0 = s.cr0 := rfl
@[simp] theorem storeAt_cr3 (l : List Nat) (b : List Byte) (s : State) : (storeAt l b s).cr3 = s.cr3 := rfl
@[simp] theorem storeAt_cr4 (l : List Nat) (b : List Byte) (s : State) : (storeAt l b s).cr4 = s.cr4 := rfl
@[simp] theorem storeAt_cr2 (l : List Nat) (b : List Byte) (s : State) : (storeAt l b s).cr2 = s.cr2 := rfl
@[simp] theorem storeAt_cr8 (l : List Nat) (b : List Byte) (s : State) : (storeAt l b s).cr8 = s.cr8 := rfl
@[simp] theorem storeAt_dr7 (l : List Nat) (b : List Byte) (s : State) : (storeAt l b s).dr7 = s.dr7 := rfl
@[simp] theorem storeAt_gprs (l : List Nat) (b : List Byte) (s : State) : (storeAt l b s).gprs = s.gprs := rfl
@[simp] theorem storeAt_rip (l : List Nat) (b : List Byte) (s : State) : (storeAt l b s).rip = s.rip := rfl
@[simp] theorem storeAt_nextRip (l : List Nat) (b : List Byte) (s : State) :
    (storeAt l b s).nextRip = s.nextRip := rfl
@[simp] theorem storeAt_rflags (l : List Nat) (b : List Byte) (s : State) : (storeAt l b s).rflags = s.rflags := rfl
@[simp] theorem storeAt_segs (l : List Nat) (b : List Byte) (s : State) : (storeAt l b s).segs = s.segs := rfl
@[simp] theorem storeAt_gdtr (l : List Nat) (b : List Byte) (s : State) : (storeAt l b s).gdtr = s.gdtr := rfl
@[simp] theorem storeAt_idtr (l : List Nat) (b : List Byte) (s : State) : (storeAt l b s).idtr = s.idtr := rfl
@[simp] theorem storeAt_debugctl (l : List Nat) (b : List Byte) (s : State) :
    (storeAt l b s).debugctl = s.debugctl := rfl
@[simp] theorem storeAt_sysenterCs (l : List Nat) (b : List Byte) (s : State) :
    (storeAt l b s).sysenterCs = s.sysenterCs := rfl
@[simp] theorem storeAt_sysenterEsp (l : List Nat) (b : List Byte) (s : State) :
    (storeAt l b s).sysenterEsp = s.sysenterEsp := rfl
@[simp] theorem storeAt_sysenterEip (l : List Nat) (b : List Byte) (s : State) :
    (storeAt l b s).sysenterEip = s.sysenterEip := rfl
@[simp] theorem storeAt_perfGlobalCtrl (l : List Nat) (b : List Byte) (s : State) :
    (storeAt l b s).perfGlobalCtrl = s.perfGlobalCtrl := rfl
@[simp] theorem storeAt_pat (l : List Nat) (b : List Byte) (s : State) : (storeAt l b s).pat = s.pat := rfl
@[simp] theorem storeAt_efer (l : List Nat) (b : List Byte) (s : State) : (storeAt l b s).efer = s.efer := rfl
@[simp] theorem storeAt_otherMsrs (l : List Nat) (b : List Byte) (s : State) :
    (storeAt l b s).otherMsrs = s.otherMsrs := rfl
@[simp] theorem storeAt_smbase (l : List Nat) (b : List Byte) (s : State) : (storeAt l b s).smbase = s.smbase := rfl
@[simp] theorem storeAt_featureControl (l : List Nat) (b : List Byte) (s : State) :
    (storeAt l b s).featureControl = s.featureControl := rfl
@[simp] theorem storeAt_smxOp (l : List Nat) (b : List Byte) (s : State) : (storeAt l b s).smxOp = s.smxOp := rfl
@[simp] theorem storeAt_a20m (l : List Nat) (b : List Byte) (s : State) : (storeAt l b s).a20m = s.a20m := rfl
@[simp] theorem storeAt_activity (l : List Nat) (b : List Byte) (s : State) :
    (storeAt l b s).activity = s.activity := rfl
@[simp] theorem storeAt_mwaitIdle (l : List Nat) (b : List Byte) (s : State) :
    (storeAt l b s).mwaitIdle = s.mwaitIdle := rfl
@[simp] theorem storeAt_blockingBySti (l : List Nat) (b : List Byte) (s : State) :
    (storeAt l b s).blockingBySti = s.blockingBySti := rfl
@[simp] theorem storeAt_interruptibilityRest (l : List Nat) (b : List Byte) (s : State) :
    (storeAt l b s).interruptibilityRest = s.interruptibilityRest := rfl
@[simp] theorem storeAt_currentVmcs (l : List Nat) (b : List Byte) (s : State) :
    (storeAt l b s).currentVmcs = s.currentVmcs := rfl
@[simp] theorem storeAt_active (l : List Nat) (b : List Byte) (s : State) : (storeAt l b s).active = s.active := rfl
@[simp] theorem storeAt_vmxonPtr (l : List Nat) (b : List Byte) (s : State) :
    (storeAt l b s).vmxonPtr = s.vmxonPtr := rfl
@[simp] theorem storeAt_initPending (l : List Nat) (b : List Byte) (s : State) :
    (storeAt l b s).initPending = s.initPending := rfl
@[simp] theorem storeAt_vmcss (l : List Nat) (b : List Byte) (s : State) :
    (storeAt l b s).vmcss = forgetTouched s.cfg (s.draws + 1) (l.filter (writable s.cfg)) s.vmcss := rfl
@[simp] theorem storeAt_mem (l : List Nat) (b : List Byte) (s : State) :
    (storeAt l b s).mem = storeBytes s.cfg (l.zip b) s.mem := rfl
@[simp] theorem storeAt_raised (l : List Nat) (b : List Byte) (s : State) : (storeAt l b s).raised = s.raised := rfl
@[simp] theorem storeAt_failed (l : List Nat) (b : List Byte) (s : State) : (storeAt l b s).failed = s.failed := rfl
@[simp] theorem storeAt_schedule (l : List Nat) (b : List Byte) (s : State) :
    (storeAt l b s).schedule = s.schedule := rfl
@[simp] theorem storeAt_entryVerdicts (l : List Nat) (b : List Byte) (s : State) :
    (storeAt l b s).entryVerdicts = s.entryVerdicts := rfl
@[simp] theorem storeAt_draws (l : List Nat) (b : List Byte) (s : State) : (storeAt l b s).draws = s.draws := rfl

/-! ## clearVmcs -/

@[simp] theorem clearVmcs_cfg (p : Word) (s : State) : (clearVmcs p s).cfg = s.cfg := rfl
@[simp] theorem clearVmcs_vmxMode (p : Word) (s : State) : (clearVmcs p s).vmxMode = s.vmxMode := rfl
@[simp] theorem clearVmcs_cr0 (p : Word) (s : State) : (clearVmcs p s).cr0 = s.cr0 := rfl
@[simp] theorem clearVmcs_cr3 (p : Word) (s : State) : (clearVmcs p s).cr3 = s.cr3 := rfl
@[simp] theorem clearVmcs_cr4 (p : Word) (s : State) : (clearVmcs p s).cr4 = s.cr4 := rfl
@[simp] theorem clearVmcs_cr2 (p : Word) (s : State) : (clearVmcs p s).cr2 = s.cr2 := rfl
@[simp] theorem clearVmcs_cr8 (p : Word) (s : State) : (clearVmcs p s).cr8 = s.cr8 := rfl
@[simp] theorem clearVmcs_dr7 (p : Word) (s : State) : (clearVmcs p s).dr7 = s.dr7 := rfl
@[simp] theorem clearVmcs_gprs (p : Word) (s : State) : (clearVmcs p s).gprs = s.gprs := rfl
@[simp] theorem clearVmcs_rip (p : Word) (s : State) : (clearVmcs p s).rip = s.rip := rfl
@[simp] theorem clearVmcs_nextRip (p : Word) (s : State) : (clearVmcs p s).nextRip = s.nextRip := rfl
@[simp] theorem clearVmcs_rflags (p : Word) (s : State) : (clearVmcs p s).rflags = s.rflags := rfl
@[simp] theorem clearVmcs_segs (p : Word) (s : State) : (clearVmcs p s).segs = s.segs := rfl
@[simp] theorem clearVmcs_gdtr (p : Word) (s : State) : (clearVmcs p s).gdtr = s.gdtr := rfl
@[simp] theorem clearVmcs_idtr (p : Word) (s : State) : (clearVmcs p s).idtr = s.idtr := rfl
@[simp] theorem clearVmcs_debugctl (p : Word) (s : State) : (clearVmcs p s).debugctl = s.debugctl := rfl
@[simp] theorem clearVmcs_sysenterCs (p : Word) (s : State) : (clearVmcs p s).sysenterCs = s.sysenterCs := rfl
@[simp] theorem clearVmcs_sysenterEsp (p : Word) (s : State) : (clearVmcs p s).sysenterEsp = s.sysenterEsp := rfl
@[simp] theorem clearVmcs_sysenterEip (p : Word) (s : State) : (clearVmcs p s).sysenterEip = s.sysenterEip := rfl
@[simp] theorem clearVmcs_perfGlobalCtrl (p : Word) (s : State) :
    (clearVmcs p s).perfGlobalCtrl = s.perfGlobalCtrl := rfl
@[simp] theorem clearVmcs_pat (p : Word) (s : State) : (clearVmcs p s).pat = s.pat := rfl
@[simp] theorem clearVmcs_efer (p : Word) (s : State) : (clearVmcs p s).efer = s.efer := rfl
@[simp] theorem clearVmcs_otherMsrs (p : Word) (s : State) : (clearVmcs p s).otherMsrs = s.otherMsrs := rfl
@[simp] theorem clearVmcs_smbase (p : Word) (s : State) : (clearVmcs p s).smbase = s.smbase := rfl
@[simp] theorem clearVmcs_featureControl (p : Word) (s : State) :
    (clearVmcs p s).featureControl = s.featureControl := rfl
@[simp] theorem clearVmcs_smxOp (p : Word) (s : State) : (clearVmcs p s).smxOp = s.smxOp := rfl
@[simp] theorem clearVmcs_a20m (p : Word) (s : State) : (clearVmcs p s).a20m = s.a20m := rfl
@[simp] theorem clearVmcs_activity (p : Word) (s : State) : (clearVmcs p s).activity = s.activity := rfl
@[simp] theorem clearVmcs_mwaitIdle (p : Word) (s : State) : (clearVmcs p s).mwaitIdle = s.mwaitIdle := rfl
@[simp] theorem clearVmcs_blockingBySti (p : Word) (s : State) :
    (clearVmcs p s).blockingBySti = s.blockingBySti := rfl
@[simp] theorem clearVmcs_interruptibilityRest (p : Word) (s : State) :
    (clearVmcs p s).interruptibilityRest = s.interruptibilityRest := rfl
@[simp] theorem clearVmcs_currentVmcs (p : Word) (s : State) :
    (clearVmcs p s).currentVmcs = if s.currentVmcs = some p then none else s.currentVmcs := rfl
@[simp] theorem clearVmcs_active (p : Word) (s : State) : (clearVmcs p s).active = deactivate p s.active := rfl
@[simp] theorem clearVmcs_vmxonPtr (p : Word) (s : State) : (clearVmcs p s).vmxonPtr = s.vmxonPtr := rfl
@[simp] theorem clearVmcs_initPending (p : Word) (s : State) : (clearVmcs p s).initPending = s.initPending := rfl
@[simp] theorem clearVmcs_vmcss (p : Word) (s : State) :
    (clearVmcs p s).vmcss = Table.insert p.toNat (clearedVmcs s p) s.vmcss := rfl
@[simp] theorem clearVmcs_mem (p : Word) (s : State) :
    (clearVmcs p s).mem = storeBytes s.cfg (imageBytes s.cfg s.draws p) s.mem := rfl
@[simp] theorem clearVmcs_raised (p : Word) (s : State) : (clearVmcs p s).raised = s.raised := rfl
@[simp] theorem clearVmcs_failed (p : Word) (s : State) : (clearVmcs p s).failed = s.failed := rfl
@[simp] theorem clearVmcs_schedule (p : Word) (s : State) : (clearVmcs p s).schedule = s.schedule := rfl
@[simp] theorem clearVmcs_entryVerdicts (p : Word) (s : State) :
    (clearVmcs p s).entryVerdicts = s.entryVerdicts := rfl
@[simp] theorem clearVmcs_draws (p : Word) (s : State) : (clearVmcs p s).draws = s.draws := rfl

/-! ## loadRegs: the fields it leaves alone -/

@[simp] theorem loadRegs_cfg (l : GuestReg → Bool) (f : GuestReg → Word) (s : State) : (loadRegs l f s).cfg = s.cfg := rfl
@[simp] theorem loadRegs_vmxMode (l : GuestReg → Bool) (f : GuestReg → Word) (s : State) : (loadRegs l f s).vmxMode = s.vmxMode := rfl
@[simp] theorem loadRegs_cr2 (l : GuestReg → Bool) (f : GuestReg → Word) (s : State) : (loadRegs l f s).cr2 = s.cr2 := rfl
@[simp] theorem loadRegs_cr8 (l : GuestReg → Bool) (f : GuestReg → Word) (s : State) : (loadRegs l f s).cr8 = s.cr8 := rfl
@[simp] theorem loadRegs_nextRip (l : GuestReg → Bool) (f : GuestReg → Word) (s : State) : (loadRegs l f s).nextRip = s.nextRip := rfl
@[simp] theorem loadRegs_otherMsrs (l : GuestReg → Bool) (f : GuestReg → Word) (s : State) : (loadRegs l f s).otherMsrs = s.otherMsrs := rfl
@[simp] theorem loadRegs_featureControl (l : GuestReg → Bool) (f : GuestReg → Word) (s : State) : (loadRegs l f s).featureControl = s.featureControl := rfl
@[simp] theorem loadRegs_smxOp (l : GuestReg → Bool) (f : GuestReg → Word) (s : State) : (loadRegs l f s).smxOp = s.smxOp := rfl
@[simp] theorem loadRegs_a20m (l : GuestReg → Bool) (f : GuestReg → Word) (s : State) : (loadRegs l f s).a20m = s.a20m := rfl
@[simp] theorem loadRegs_mwaitIdle (l : GuestReg → Bool) (f : GuestReg → Word) (s : State) : (loadRegs l f s).mwaitIdle = s.mwaitIdle := rfl
@[simp] theorem loadRegs_currentVmcs (l : GuestReg → Bool) (f : GuestReg → Word) (s : State) : (loadRegs l f s).currentVmcs = s.currentVmcs := rfl
@[simp] theorem loadRegs_active (l : GuestReg → Bool) (f : GuestReg → Word) (s : State) : (loadRegs l f s).active = s.active := rfl
@[simp] theorem loadRegs_vmxonPtr (l : GuestReg → Bool) (f : GuestReg → Word) (s : State) : (loadRegs l f s).vmxonPtr = s.vmxonPtr := rfl
@[simp] theorem loadRegs_initPending (l : GuestReg → Bool) (f : GuestReg → Word) (s : State) : (loadRegs l f s).initPending = s.initPending := rfl
@[simp] theorem loadRegs_vmcss (l : GuestReg → Bool) (f : GuestReg → Word) (s : State) : (loadRegs l f s).vmcss = s.vmcss := rfl
@[simp] theorem loadRegs_mem (l : GuestReg → Bool) (f : GuestReg → Word) (s : State) : (loadRegs l f s).mem = s.mem := rfl
@[simp] theorem loadRegs_raised (l : GuestReg → Bool) (f : GuestReg → Word) (s : State) : (loadRegs l f s).raised = s.raised := rfl
@[simp] theorem loadRegs_failed (l : GuestReg → Bool) (f : GuestReg → Word) (s : State) : (loadRegs l f s).failed = s.failed := rfl
@[simp] theorem loadRegs_schedule (l : GuestReg → Bool) (f : GuestReg → Word) (s : State) : (loadRegs l f s).schedule = s.schedule := rfl
@[simp] theorem loadRegs_entryVerdicts (l : GuestReg → Bool) (f : GuestReg → Word) (s : State) : (loadRegs l f s).entryVerdicts = s.entryVerdicts := rfl
@[simp] theorem loadRegs_draws (l : GuestReg → Bool) (f : GuestReg → Word) (s : State) : (loadRegs l f s).draws = s.draws := rfl

/-! ## loadHost: the fields it leaves alone -/

@[simp] theorem loadHost_cfg (p : Word) (v : Vmcs) (s : State) : (loadHost p v s).cfg = s.cfg := rfl
@[simp] theorem loadHost_cr2 (p : Word) (v : Vmcs) (s : State) : (loadHost p v s).cr2 = s.cr2 := rfl
@[simp] theorem loadHost_cr8 (p : Word) (v : Vmcs) (s : State) : (loadHost p v s).cr8 = s.cr8 := rfl
@[simp] theorem loadHost_nextRip (p : Word) (v : Vmcs) (s : State) : (loadHost p v s).nextRip = s.nextRip := rfl
@[simp] theorem loadHost_otherMsrs (p : Word) (v : Vmcs) (s : State) : (loadHost p v s).otherMsrs = s.otherMsrs := rfl
@[simp] theorem loadHost_featureControl (p : Word) (v : Vmcs) (s : State) : (loadHost p v s).featureControl = s.featureControl := rfl
@[simp] theorem loadHost_smxOp (p : Word) (v : Vmcs) (s : State) : (loadHost p v s).smxOp = s.smxOp := rfl
@[simp] theorem loadHost_a20m (p : Word) (v : Vmcs) (s : State) : (loadHost p v s).a20m = s.a20m := rfl
@[simp] theorem loadHost_currentVmcs (p : Word) (v : Vmcs) (s : State) : (loadHost p v s).currentVmcs = s.currentVmcs := rfl
@[simp] theorem loadHost_active (p : Word) (v : Vmcs) (s : State) : (loadHost p v s).active = s.active := rfl
@[simp] theorem loadHost_vmxonPtr (p : Word) (v : Vmcs) (s : State) : (loadHost p v s).vmxonPtr = s.vmxonPtr := rfl
@[simp] theorem loadHost_initPending (p : Word) (v : Vmcs) (s : State) : (loadHost p v s).initPending = s.initPending := rfl
@[simp] theorem loadHost_vmcss (p : Word) (v : Vmcs) (s : State) : (loadHost p v s).vmcss = s.vmcss := rfl
@[simp] theorem loadHost_mem (p : Word) (v : Vmcs) (s : State) : (loadHost p v s).mem = s.mem := rfl
@[simp] theorem loadHost_schedule (p : Word) (v : Vmcs) (s : State) : (loadHost p v s).schedule = s.schedule := rfl
@[simp] theorem loadHost_entryVerdicts (p : Word) (v : Vmcs) (s : State) : (loadHost p v s).entryVerdicts = s.entryVerdicts := rfl
@[simp] theorem loadHost_draws (p : Word) (v : Vmcs) (s : State) : (loadHost p v s).draws = s.draws := rfl

/-! ## enterGuest: the fields it leaves alone -/

@[simp] theorem enterGuest_cfg (p : Word) (l : Bool) (s : State) : (enterGuest p l s).cfg = s.cfg := rfl
@[simp] theorem enterGuest_cr2 (p : Word) (l : Bool) (s : State) : (enterGuest p l s).cr2 = s.cr2 := rfl
@[simp] theorem enterGuest_cr8 (p : Word) (l : Bool) (s : State) : (enterGuest p l s).cr8 = s.cr8 := rfl
@[simp] theorem enterGuest_nextRip (p : Word) (l : Bool) (s : State) : (enterGuest p l s).nextRip = s.nextRip := rfl
@[simp] theorem enterGuest_otherMsrs (p : Word) (l : Bool) (s : State) : (enterGuest p l s).otherMsrs = s.otherMsrs := rfl
@[simp] theorem enterGuest_featureControl (p : Word) (l : Bool) (s : State) : (enterGuest p l s).featureControl = s.featureControl := rfl
@[simp] theorem enterGuest_smxOp (p : Word) (l : Bool) (s : State) : (enterGuest p l s).smxOp = s.smxOp := rfl
@[simp] theorem enterGuest_a20m (p : Word) (l : Bool) (s : State) : (enterGuest p l s).a20m = s.a20m := rfl
@[simp] theorem enterGuest_currentVmcs (p : Word) (l : Bool) (s : State) : (enterGuest p l s).currentVmcs = s.currentVmcs := rfl
@[simp] theorem enterGuest_vmxonPtr (p : Word) (l : Bool) (s : State) : (enterGuest p l s).vmxonPtr = s.vmxonPtr := rfl
@[simp] theorem enterGuest_initPending (p : Word) (l : Bool) (s : State) : (enterGuest p l s).initPending = s.initPending := rfl
@[simp] theorem enterGuest_mem (p : Word) (l : Bool) (s : State) : (enterGuest p l s).mem = s.mem := rfl
@[simp] theorem enterGuest_raised (p : Word) (l : Bool) (s : State) : (enterGuest p l s).raised = s.raised := rfl
@[simp] theorem enterGuest_schedule (p : Word) (l : Bool) (s : State) : (enterGuest p l s).schedule = s.schedule := rfl
@[simp] theorem enterGuest_entryVerdicts (p : Word) (l : Bool) (s : State) : (enterGuest p l s).entryVerdicts = s.entryVerdicts := rfl
@[simp] theorem enterGuest_draws (p : Word) (l : Bool) (s : State) : (enterGuest p l s).draws = s.draws := rfl

@[simp] theorem loadHost_vmxMode (p : Word) (v : Vmcs) (s : State) : (loadHost p v s).vmxMode = .root := rfl
@[simp] theorem loadHost_activity (p : Word) (v : Vmcs) (s : State) : (loadHost p v s).activity = .active := rfl
@[simp] theorem loadHost_mwaitIdle (p : Word) (v : Vmcs) (s : State) : (loadHost p v s).mwaitIdle = false := rfl
@[simp] theorem loadHost_blockingBySti (p : Word) (v : Vmcs) (s : State) : (loadHost p v s).blockingBySti = false := rfl
@[simp] theorem loadHost_raised (p : Word) (v : Vmcs) (s : State) : (loadHost p v s).raised = none := rfl
@[simp] theorem loadHost_failed (p : Word) (v : Vmcs) (s : State) : (loadHost p v s).failed = false := rfl
@[simp] theorem enterGuest_vmxMode (p : Word) (l : Bool) (s : State) : (enterGuest p l s).vmxMode = .nonRoot := rfl
@[simp] theorem enterGuest_mwaitIdle (p : Word) (l : Bool) (s : State) : (enterGuest p l s).mwaitIdle = false := rfl
@[simp] theorem enterGuest_failed (p : Word) (l : Bool) (s : State) : (enterGuest p l s).failed = false := rfl

end Sys2Proof.Machine
end

