-- ==== Sys2Proof/Laws/Ops.lean ====
section
/-! SUPPORT. One lemma for each shared operation: what it can answer. -/

namespace Sys2Proof.Machine

/-! ## Cutting values -/

theorem truncTo_toNat (n : Nat) (v : Word) : (truncTo n v).toNat = v.toNat % 2 ^ n := by
  unfold truncTo
  rw [BitVec.toNat_ofNat]
  exact Nat.mod_eq_of_lt (Nat.lt_of_le_of_lt (Nat.mod_le _ _) v.isLt)

theorem truncTo_fits (n : Nat) (v : Word) : Fits n (truncTo n v) := by
  unfold Fits
  rw [truncTo_toNat]
  exact Nat.mod_lt _ (Nat.two_pow_pos n)

theorem truncTo_of_fits {n : Nat} {v : Word} (h : Fits n v) : truncTo n v = v := by
  apply BitVec.eq_of_toNat_eq
  rw [truncTo_toNat, Nat.mod_eq_of_lt h]

theorem truncTo_64 (v : Word) : truncTo 64 v = v := truncTo_of_fits v.isLt

theorem truncTo_truncTo (n : Nat) (v : Word) : truncTo n (truncTo n v) = truncTo n v :=
  truncTo_of_fits (truncTo_fits n v)

theorem Fits.mono {m n : Nat} (h : m ≤ n) {v : Word} (f : Fits m v) : Fits n v :=
  Nat.lt_of_lt_of_le f (Nat.pow_le_pow_right (by omega) h)

/-! ## General registers -/

theorem Gprs.get_set_self (g : Gprs) (r : Reg) (v : Word) : (g.set r v).get r = v := by cases r <;> rfl

theorem Gprs.get_set_of_ne (g : Gprs) {r q : Reg} (h : q ≠ r) (v : Word) : (g.set r v).get q = g.get q := by
  cases r <;> cases q <;> first | rfl | exact absurd rfl h

theorem gpr_setGpr_self (r : Reg) (v : Word) (s : State) : gpr r (setGpr r v s) = v := Gprs.get_set_self _ _ _

theorem gpr_setGpr_of_ne {r q : Reg} (h : q ≠ r) (v : Word) (s : State) : gpr q (setGpr r v s) = gpr q s :=
  Gprs.get_set_of_ne _ h _

/-! ## VMCSs -/

/-- No two fields share a key. -/
theorem segIdx_inj {a b : Seg} (h : segIdx a = segIdx b) : a = b := by cases a <;> cases b <;> first | rfl | simp [segIdx] at h

theorem segIdx_lt (a : Seg) : segIdx a < 8 := by cases a <;> decide

theorem guestIdx_lt (a : GuestReg) : guestIdx a < 53 := by
  cases a <;> first | (simp only [guestIdx]; rename_i s; have := segIdx_lt s; omega) | decide

theorem guestIdx_inj {a b : GuestReg} (h : guestIdx a = guestIdx b) : a = b := by
  cases a <;> cases b <;> simp only [guestIdx] at h <;>
    first
      | rfl
      | omega
      | (rename_i s; have := segIdx_lt s; omega)
      | (rename_i s t; have := segIdx_lt s; have := segIdx_lt t; first | omega | (congr 1; exact segIdx_inj (by omega)))

theorem fieldIdx_inj {a b : Field} (h : fieldIdx a = fieldIdx b) : a = b := by
  cases a <;> cases b <;> simp only [fieldIdx] at h <;>
    first
      | rfl
      | omega
      | (rename_i r; have := guestIdx_lt r; omega)
      | (rename_i r q; have := guestIdx_lt r; have := guestIdx_lt q
         first | omega | (congr 1; exact guestIdx_inj (by omega)))

theorem fieldVal_setField_self (cfg : Config) (p : Word) (f : Field) (x : Word) (v : Vmcs) :
    fieldVal cfg p (setField cfg f x v) f = truncTo (fieldWidth cfg f) x := by
  simp only [fieldVal, setField, Table.find?_insert_self, Option.getD_some, truncTo_truncTo]

theorem fieldVal_setField_of_ne (cfg : Config) (p : Word) {f g : Field} (h : g ≠ f) (x : Word) (v : Vmcs) :
    fieldVal cfg p (setField cfg f x v) g = fieldVal cfg p v g := by
  simp only [fieldVal, setField, Table.find?_insert_of_ne (fun e => h (fieldIdx_inj e))]

theorem fieldVal_launch (cfg : Config) (p : Word) (l : LaunchState) (v : Vmcs) (f : Field) :
    fieldVal cfg p { v with launch := l } f = fieldVal cfg p v f := rfl

theorem fieldVal_fits (cfg : Config) (p : Word) (v : Vmcs) (f : Field) :
    Fits (fieldWidth cfg f) (fieldVal cfg p v f) := truncTo_fits _ _

theorem setField_launch (cfg : Config) (f : Field) (x : Word) (v : Vmcs) : (setField cfg f x v).launch = v.launch := rfl

theorem vmcsAt_putVmcs_self (p : Word) (v : Vmcs) (s : State) : vmcsAt (putVmcs p v s) p = v := by
  simp only [vmcsAt, putVmcs, Table.find?_insert_self, Option.getD_some]

theorem vmcsAt_putVmcs_of_ne {p q : Word} (h : q ≠ p) (v : Vmcs) (s : State) :
    vmcsAt (putVmcs p v s) q = vmcsAt s q := by
  simp only [vmcsAt, putVmcs, Table.find?_insert_of_ne (fun e => h (BitVec.eq_of_toNat_eq e))]

/-- Saving the guest changes guest-state fields only. -/
theorem saveGuest_launch (cfg : Config) (l : GuestReg → Bool) (f : GuestReg → Word) (gs : List GuestReg) (v : Vmcs) :
    (saveGuest cfg l f gs v).launch = v.launch := by
  induction gs generalizing v with
  | nil => rfl
  | cons g t ih => simp only [saveGuest]; rw [ih]; split <;> rfl

theorem fieldVal_saveGuest_of_not_mem (cfg : Config) (p : Word) (l : GuestReg → Bool) (f : GuestReg → Word)
    (gs : List GuestReg) (v : Vmcs) (x : Field) (h : ∀ g ∈ gs, x ≠ .guest g) :
    fieldVal cfg p (saveGuest cfg l f gs v) x = fieldVal cfg p v x := by
  induction gs generalizing v with
  | nil => rfl
  | cons g t ih =>
    simp only [saveGuest]
    rw [ih _ (fun g hg => h g (List.mem_cons_of_mem _ hg))]
    split
    · exact fieldVal_setField_of_ne _ _ (h g List.mem_cons_self) _ _
    · rfl

theorem fieldVal_saveGuest (cfg : Config) (p : Word) (l : GuestReg → Bool) (f : GuestReg → Word)
    (gs : List GuestReg) (v : Vmcs) (g : GuestReg) (hg : g ∈ gs) (hl : l g = true) :
    fieldVal cfg p (saveGuest cfg l f gs v) (.guest g) = truncTo (guestWidth cfg g) (f g) := by
  induction gs generalizing v with
  | nil => cases hg
  | cons q t ih =>
    simp only [saveGuest]
    by_cases ht : g ∈ t
    · exact ih _ ht
    · have e : g = q := by
        cases hg with
        | head => rfl
        | tail _ h => exact absurd h ht
      subst e
      rw [fieldVal_saveGuest_of_not_mem cfg p l f t _ _ (fun r hr e => ht (by injection e with e; rw [e]; exact hr)),
        if_pos hl, fieldVal_setField_self]
      rfl

theorem mem_allGuestRegs (g : GuestReg) : g ∈ allGuestRegs := by
  cases g <;> first | (rename_i s; cases s <;> decide) | decide

theorem recordExit_launch (cfg : Config) (r : ExitValues) (v : Vmcs) : (recordExit cfg r v).launch = v.launch := rfl

/-- Recording the cause of a VM exit changes the three VM-exit information fields only. -/
theorem fieldVal_recordExit_of_ne (cfg : Config) (p : Word) (r : ExitValues) (v : Vmcs) {f : Field}
    (h1 : f ≠ .exitReason) (h2 : f ≠ .exitQualification) (h3 : f ≠ .interruptionInfo) :
    fieldVal cfg p (recordExit cfg r v) f = fieldVal cfg p v f := by
  simp only [recordExit]
  rw [fieldVal_setField_of_ne _ _ h3, fieldVal_setField_of_ne _ _ h2, fieldVal_setField_of_ne _ _ h1]

/-- The VMCS after a VM exit: the host-state area, the controls and the launch state are as before. -/
theorem exitVmcs_launch (s : State) (p : Word) (c : Trigger) (r : ExitRecord) :
    (exitVmcs s p c r).launch = (vmcsAt s p).launch := by
  simp only [exitVmcs, recordExit_launch, saveGuest_launch]

theorem exitVmcs_host (s : State) (p : Word) (c : Trigger) (r : ExitRecord) (g : GuestReg) :
    fieldVal s.cfg p (exitVmcs s p c r) (.host g) = fieldVal s.cfg p (vmcsAt s p) (.host g) := by
  simp only [exitVmcs]
  rw [fieldVal_recordExit_of_ne _ _ _ _ (by simp) (by simp) (by simp),
    fieldVal_saveGuest_of_not_mem _ _ _ _ _ _ _ (by simp)]

/-- The VMCSs of a set become undefined, the others stay. -/
theorem find?_forgetActive (e : Nat) (l : List Word) (t : List (Nat × Vmcs)) (k : Nat) :
    Table.find? k (forgetActive e l t)
      = if l.any (fun p => decide (p.toNat = k)) then some (undefinedVmcs e) else Table.find? k t := by
  induction l with
  | nil => rfl
  | cons p l ih =>
    rw [forgetActive, Table.find?_insert, ih, List.any_cons]
    by_cases h : k = p.toNat
    · simp [h]
    · simp [h, Ne.symm h]

theorem sorted_forgetActive (e : Nat) (l : List Word) {t : List (Nat × Vmcs)} (h : Table.sorted t = true) :
    Table.sorted (forgetActive e l t) = true := by
  induction l with
  | nil => exact h
  | cons p l ih => exact Table.sorted_insert _ _ ih

/-! ## The set of active VMCSs -/

theorem mem_activate (p q : Word) (l : List Word) : q ∈ activate p l ↔ q = p ∨ q ∈ l := by
  induction l with
  | nil => simp [activate]
  | cons a t ih =>
    simp only [activate]
    split
    · simp
    · split
      · rename_i e; subst e; simp
      · simp only [List.mem_cons, ih]; tauto

theorem mem_deactivate (p q : Word) (l : List Word) : q ∈ deactivate p l ↔ q ∈ l ∧ q ≠ p := by
  simp [deactivate]

theorem risingFrom_mono {a b : Word} (h : a < b) {l : List Word} (r : risingFrom b l = true) : risingFrom a l = true := by
  cases l with
  | nil => rfl
  | cons c t =>
    simp only [risingFrom, Bool.and_eq_true, decide_eq_true_eq] at *
    exact ⟨BitVec.lt_trans h r.1, r.2⟩

theorem risingFrom_activate {a p : Word} (h : a < p) {l : List Word} (r : risingFrom a l = true) :
    risingFrom a (activate p l) = true := by
  induction l generalizing a with
  | nil => simp [activate, risingFrom, h]
  | cons c t ih =>
    simp only [risingFrom, Bool.and_eq_true, decide_eq_true_eq] at r
    simp only [activate]
    split
    · rename_i lt; simp [risingFrom, h, lt, r.2]
    · rename_i nlt
      split
      · simp [risingFrom, r.1, r.2]
      · rename_i ne
        have : c < p := by bv_omega
        simp [risingFrom, r.1, ih this r.2]

theorem rising_activate (p : Word) {l : List Word} (r : rising l = true) : rising (activate p l) = true := by
  cases l with
  | nil => rfl
  | cons c t =>
    simp only [rising] at r
    simp only [activate]
    split
    · rename_i lt; simp [rising, risingFrom, lt, r]
    · rename_i nlt
      split
      · exact r
      · rename_i ne
        have : c < p := by bv_omega
        simp [rising, risingFrom_activate this r]

theorem risingFrom_filter (f : Word → Bool) {a : Word} {l : List Word} (r : risingFrom a l = true) :
    risingFrom a (l.filter f) = true := by
  induction l generalizing a with
  | nil => rfl
  | cons c t ih =>
    simp only [risingFrom, Bool.and_eq_true, decide_eq_true_eq] at r
    rw [List.filter_cons]
    split
    · simp [risingFrom, r.1, ih r.2]
    · exact ih (risingFrom_mono r.1 r.2)

theorem rising_deactivate (p : Word) {l : List Word} (r : rising l = true) : rising (deactivate p l) = true := by
  cases l with
  | nil => rfl
  | cons c t =>
    unfold deactivate
    rw [List.filter_cons]
    split
    · exact risingFrom_filter _ r
    · have := risingFrom_filter (fun q => decide (q ≠ p)) (show risingFrom c t = true from r)
      generalize t.filter (fun q => decide (q ≠ p)) = u at this
      cases u with
      | nil => rfl
      | cons d v => simp only [risingFrom, Bool.and_eq_true] at this; exact this.2

/-! ## What a VM exit depends on -/

/-- Terms do not see the model's own lists, nor a pending INIT. (They see the counter: a byte the processor owns reads as a
free value.) -/
theorem evalTerm_bookkeeping (s : State) (l : List (Option Event)) (b : Bool) (e : List EntryVerdict)
    (o : OperandVals) (x : StateTerm) :
    evalTerm { s with schedule := l, initPending := b, entryVerdicts := e } o x = evalTerm s o x := by
  induction x with
  | sys y => cases y <;> rfl
  | reg g => cases g <;> rfl
  | byte a ih => simp only [evalTerm, ih]; rfl
  | isActive p ih => simp only [evalTerm, ih]
  | op n a b iha ihb => simp only [evalTerm, iha, ihb]
  | orElse a b iha ihb => simp only [evalTerm, iha, ihb]
  | _ => rfl

theorem condHolds_bookkeeping (s : State) (l : List (Option Event)) (b : Bool) (e : List EntryVerdict)
    (o : OperandVals) (c : TermCond) :
    condHolds { s with schedule := l, initPending := b, entryVerdicts := e } o c = condHolds s o c := by
  simp only [condHolds, evalTerm_bookkeeping]

/-- Nor do the predicates over causes and states. -/
theorem ruleApplies_bookkeeping (s : State) (l : List (Option Event)) (b : Bool) (e : List EntryVerdict)
    (g : Trigger) (r : ExitRule) :
    ruleApplies { s with schedule := l, initPending := b, entryVerdicts := e } g r = ruleApplies s g r := by
  simp only [ruleApplies, funext (condHolds_bookkeeping s l b e g.operands)]

theorem exits_bookkeeping (s : State) (l : List (Option Event)) (b : Bool) (e : List EntryVerdict) (g : Trigger) :
    exits { s with schedule := l, initPending := b, entryVerdicts := e } g = exits s g := by
  simp only [exits, funext (ruleApplies_bookkeeping s l b e g)]

theorem exitRip_bookkeeping (s : State) (l : List (Option Event)) (b : Bool) (e : List EntryVerdict) (g : Trigger) :
    exitRip { s with schedule := l, initPending := b, entryVerdicts := e } g = exitRip s g := by
  simp only [exitRip, funext (ruleApplies_bookkeeping s l b e g)]

theorem recordValues_bookkeeping (s : State) (l : List (Option Event)) (b : Bool) (e : List EntryVerdict)
    (o : OperandVals) (r : ExitRecord) :
    recordValues { s with schedule := l, initPending := b, entryVerdicts := e } o r = recordValues s o r := by
  simp only [recordValues, evalTerm_bookkeeping]

/-- A condition that holds is about terms that have values. -/
theorem condHolds_iff {s : State} {o : OperandVals} {c : TermCond} :
    condHolds s o c = true ↔ ∃ x y, evalTerm s o c.lhs = some x ∧ evalTerm s o c.rhs = some y ∧ (x == y) = c.eq := by
  unfold condHolds
  split
  · rename_i x y hx hy
    simp [hx, hy]
  · rename_i h
    constructor
    · intro f; cases f
    · rintro ⟨x, y, hx, hy, -⟩; exact absurd hy (h x y hx)

/-! ## Outcomes -/

theorem raise_eq (e : Exception) (s : State) : raise e s = .next { s with raised := some e } := rfl

/-- The outcome of a stopped operand access: a raised exception, or the end. -/
theorem stopWith_next {s t : State} {e : Stop} (h : stopWith s e = .next t) :
    ∃ x, t = { s with raised := some x } := by
  cases e with
  | exn x => exact ⟨x, by simpa [stopWith, raise] using h.symm⟩
  | fault f => cases h
  | refuse r => cases h

theorem vmxPrologue_ready {c : Trigger} {s : State} (body : State → Result) (h : RootReady s) :
    vmxPrologue c s body = body s := by
  obtain ⟨m, o, p⟩ := h
  simp [vmxPrologue, inVmx, m, o, p]

/-- A VMX instruction raises an exception, exits, or has its own effect. -/
theorem vmxPrologue_next {c : Trigger} {s t : State} {body : State → Result}
    (h : vmxPrologue c s body = .next t) :
    (∃ e, t = { s with raised := some e }) ∨ (s.vmxMode = .nonRoot ∧ vmExit c s = .next t)
      ∨ (RootReady s ∧ body s = .next t) := by
  unfold vmxPrologue at h
  split at h
  · exact .inl ⟨_, (Host.Outcome.next.inj h).symm⟩
  · rename_i h0
    split at h
    · rename_i h1
      split at h
      · exact .inr (.inl ⟨h1, h⟩)
      · cases h
    · rename_i h1
      split at h
      · exact .inl ⟨_, (Host.Outcome.next.inj h).symm⟩
      · rename_i h2
        refine .inr (.inr ⟨⟨?_, ?_, ?_⟩, h⟩)
        · simp [inVmx] at h0; cases hm : s.vmxMode <;> simp_all
        · simp [inVmx] at h0; exact h0.2
        · simpa using h2

theorem basePrologue_ready {c : Trigger} {s : State} (body : State → Result)
    (h : s.vmxMode = .nonRoot → exits s c = false) :
    basePrologue c s body = body s := by
  unfold basePrologue
  split
  · rename_i h0; simp only [Bool.and_eq_true, decide_eq_true_eq] at h0; rw [h h0.1] at h0; cases h0.2
  · rfl

/-- A base instruction exits or has its ordinary effect. -/
theorem basePrologue_next {c : Trigger} {s t : State} {body : State → Result}
    (h : basePrologue c s body = .next t) :
    (s.vmxMode = .nonRoot ∧ vmExit c s = .next t) ∨ body s = .next t := by
  unfold basePrologue at h
  split at h
  · rename_i h0; simp only [Bool.and_eq_true, decide_eq_true_eq] at h0; exact .inl ⟨h0.1, h⟩
  · exact .inr h

theorem privileged_ready {c : Trigger} {s : State} (body : State → Result)
    (h : s.vmxMode = .nonRoot → exits s c = false) (p : cpl s = 0) :
    privileged c s body = body s := by
  simp [privileged, basePrologue_ready _ h, p]

/-- A privileged base instruction exits, raises #GP, or has its ordinary effect. -/
theorem privileged_next {c : Trigger} {s t : State} {body : State → Result}
    (h : privileged c s body = .next t) :
    (s.vmxMode = .nonRoot ∧ vmExit c s = .next t) ∨ (∃ e, t = { s with raised := some e })
      ∨ (cpl s = 0 ∧ body s = .next t) := by
  rcases basePrologue_next h with h | h
  · exact .inl h
  · split at h
    · exact .inr (.inl ⟨_, (Host.Outcome.next.inj h).symm⟩)
    · rename_i p; exact .inr (.inr ⟨by simpa using p, h⟩)

/-- A VM exit goes to the host state of the current VMCS, which holds the guest and the cause. -/
theorem vmExit_next {c : Trigger} {s t : State} (h : vmExit c s = .next t) :
    ∃ p r, s.currentVmcs = some p ∧ lookupExitInfo c.cause s.cfg.exitInfo = some r
      ∧ t = loadHost p (exitVmcs s p c r) (putVmcs p (exitVmcs s p c r) s) := by
  unfold vmExit at h
  split at h
  · cases h
  · cases h
  · rename_i p r hp hr
    exact ⟨p, r, hp, hr, (Host.Outcome.next.inj h).symm⟩

/-- A VM entry fails, fails late, or enters the guest. -/
theorem vmEntry_next {p : Word} {l : Bool} {s t : State} (h : vmEntry p l s = .next t) :
    (entryCheck s p = .failEarly ∧ vmFail { s with entryVerdicts := s.entryVerdicts.tail } = .next t)
      ∨ (entryCheck s p = .failLate ∧ failEntryLate p { s with entryVerdicts := s.entryVerdicts.tail } = .next t)
      ∨ (entryCheck s p = .pass ∧ t = enterGuest p l { s with entryVerdicts := s.entryVerdicts.tail }) := by
  unfold vmEntry at h
  split at h
  · exact .inl ⟨by assumption, h⟩
  · exact .inr (.inl ⟨by assumption, h⟩)
  · exact .inr (.inr ⟨by assumption, (Host.Outcome.next.inj h).symm⟩)

theorem failEntryLate_next {p : Word} {s t : State} (h : failEntryLate p s = .next t) :
    ∃ r, t = loadHost p (recordExit s.cfg (recordValues s noOperands r) (vmcsAt s p))
      (putVmcs p (recordExit s.cfg (recordValues s noOperands r) (vmcsAt s p)) s) := by
  unfold failEntryLate at h
  split at h
  · cases h
  · exact ⟨_, (Host.Outcome.next.inj h).symm⟩

/-- A VM entry that passes has supported guest and host values (42_vm_entry_exit.md R191, R198). -/
theorem entryCheck_host {s : State} {p : Word} (h : entryCheck s p ≠ .failEarly) :
    hostStateOk s p (vmcsAt s p) = true := by
  unfold entryCheck at h
  by_cases g : hostStateOk s p (vmcsAt s p) = true
  · exact g
  · simp [g] at h

theorem entryCheck_guest {s : State} {p : Word} (h : entryCheck s p = .pass) :
    guestStateOk s p (vmcsAt s p) = true := by
  by_cases g : guestStateOk s p (vmcsAt s p) = true
  · exact g
  · unfold entryCheck at h
    simp only [g] at h
    split at h
    · cases h
    · split at h
      · cases h
      · rename_i n; exact absurd h (by simpa using n)

/-- A failure changes RFLAGS and the error field of the current VMCS at most. -/
theorem reportFail_cases (s : State) :
    reportFail s = s ∨ (∃ f, reportFail s = { s with rflags := f })
      ∨ (s.vmxMode = .root ∧ ∃ p x, s.currentVmcs = some p ∧ reportFail s = { s with
          rflags := flagsFailValid s.rflags
          vmcss := Table.insert p.toNat (setField s.cfg .vmInstructionError x (vmcsAt s p)) s.vmcss }) := by
  unfold reportFail
  split
  · split
    · rename_i p hm hp; exact .inr (.inr ⟨hm, p, _, hp, rfl⟩)
    · exact .inr (.inl ⟨_, rfl⟩)
  · exact .inl rfl

/-! ## Memory -/

/-- A store writes all its bytes, none of which the processor owns. -/
theorem memWrite_ok {s t : State} {lin : Word} {n : Nat} {v : Word} (h : memWrite s lin n v = .ok t) :
    ∃ as, physAddrs s .write n lin = .ok as ∧ as.any (processorOwned s) = false
      ∧ t = storeAt as (leBytes n v.toNat) s := by
  unfold memWrite at h
  split at h
  · rename_i as ha
    split at h
    · cases h
    · rename_i ho; exact ⟨as, ha, by simpa using ho, (Except.ok.inj h).symm⟩
  · cases h

theorem physAddrs_length {s : State} {a : Access} {n : Nat} {lin : Word} {as : List Nat}
    (h : physAddrs s a n lin = .ok as) : as.length = n := by
  induction n generalizing lin as with
  | zero => simp [physAddrs] at h; simp [← h]
  | succ n ih =>
    simp only [physAddrs] at h
    split at h
    · rename_i x t _ ht
      rw [← Except.ok.inj h]; simp [ih ht]
    · cases h
    · cases h

theorem leBytes_length (n v : Nat) : (leBytes n v).length = n := by
  induction n generalizing v with
  | zero => rfl
  | succ n ih => simp [leBytes, ih]

/-- An access reaches the address asked for, within the physical address space. -/
theorem reach_ok {cfg : Config} {a b : Nat} (h : reach cfg a = .ok b) :
    b = a ∧ a < 2 ^ cfg.paWidth ∧ inMap cfg .absent a = false ∧ inMap cfg .device a = false := by
  unfold reach at h
  split at h
  · cases h
  · rename_i h1
    split at h
    · cases h
    · rename_i h2
      simp only [Bool.or_eq_true, decide_eq_true_eq, not_or, Bool.not_eq_true] at h1 h2
      exact ⟨(Except.ok.inj h).symm, by omega, h1.2, h2⟩

/-- A store leaves every byte that it does not address, and every byte of read-only memory. -/
theorem storeBytes_read (cfg : Config) (l : List (Nat × Byte)) (m : Memory) (a : Nat)
    (h : (∀ c ∈ l, c.1 ≠ a) ∨ writable cfg a = false) :
    Memory.read (storeBytes cfg l m) a = Memory.read m a :=
  Memory.read_writeAll_of_not_mem _ _ _ (fun c hc e => by
    rw [List.mem_filter] at hc
    rcases h with h | h
    · exact h c hc.1 e
    · rw [e, h] at hc; cases hc.2)

theorem storeAt_read_of_not_mem {as : List Nat} {bs : List Byte} {s : State} {a : Nat}
    (h : a ∉ as ∨ writable s.cfg a = false) : Memory.read (storeAt as bs s).mem a = Memory.read s.mem a :=
  storeBytes_read _ _ _ _ (h.imp_left fun h c hc e => h (by
    have := (List.of_mem_zip (show (c.1, c.2) ∈ as.zip bs from hc)).1
    rw [e] at this; exact this))

/-- The image of a VMCS lies in its data area. -/
theorem mem_imageBytes {cfg : Config} {d : Nat} {p : Word} {c : Nat × Byte} (h : c ∈ imageBytes cfg d p) :
    inVmcsData cfg p c.1 = true := by
  simp only [imageBytes, List.mem_map, List.mem_range] at h
  obtain ⟨i, hi, rfl⟩ := h
  simp only [inVmcsData, Bool.and_eq_true, decide_eq_true_eq]
  omega

theorem imageBytes_read {cfg : Config} {d : Nat} {p : Word} {m : Memory} {a : Nat} (h : inVmcsData cfg p a = false) :
    Memory.read (storeBytes cfg (imageBytes cfg d p) m) a = Memory.read m a :=
  storeBytes_read _ _ _ _ (.inl fun c hc e => by
    have := mem_imageBytes hc
    rw [e, h] at this; cases this)

/-- Cutting an address to the width of the mode keeps its place in a page. -/
theorem wrapMode_mod (s : State) (v : Word) : (wrapMode s v).toNat % 4096 = v.toNat % 4096 := by
  unfold wrapMode low32
  split
  · rfl
  · simp only [BitVec.toNat_setWidth]; omega

/-- Translation keeps an address's place in its page. -/
theorem translate_mod {s : State} {acc : Access} {lin : Word} {a : Nat} (h : translate s acc lin = .ok a) :
    a % 4096 = lin.toNat % 4096 := by
  unfold translate at h
  split at h
  · split at h
    · rw [(reach_ok h).1]
    · cases h
  · split at h
    · cases h
    · rw [(reach_ok h).1]; omega

/-- The bytes of an operand stand at rising places of their pages, so a short operand's bytes are apart. -/
theorem physAddrs_mod {s : State} {acc : Access} {n : Nat} {lin : Word} {as : List Nat}
    (h : physAddrs s acc n lin = .ok as) {k a : Nat} (hk : as[k]? = some a) :
    a % 4096 = (lin.toNat + k) % 4096 := by
  induction n generalizing lin as k with
  | zero => simp only [physAddrs, Except.ok.injEq] at h; subst h; simp at hk
  | succ n ih =>
    simp only [physAddrs] at h
    split at h
    · rename_i x t hx ht
      have h := Except.ok.inj h
      subst h
      cases k with
      | zero => simp only [List.getElem?_cons_zero, Option.some.injEq] at hk; subst hk; exact translate_mod hx
      | succ k =>
        have := ih ht (by simpa using hk)
        have := wrapMode_mod s (lin + 1)
        have : (lin + 1).toNat % 4096 = (lin.toNat + 1) % 4096 := by
          rw [BitVec.toNat_add, show (1 : Word).toNat = 1 from rfl]; omega
        omega
    · cases h
    · cases h

theorem physAddrs_nodup {s : State} {acc : Access} {n : Nat} {lin : Word} {as : List Nat}
    (h : physAddrs s acc n lin = .ok as) (hn : n ≤ 4096) : as.Nodup := by
  rw [List.nodup_iff_getElem?_ne_getElem?]
  intro i j hij hj e
  have hl := physAddrs_length h
  have h1 := physAddrs_mod h (List.getElem?_eq_getElem hj)
  have h2 := physAddrs_mod h (e.trans (List.getElem?_eq_getElem hj))
  omega

theorem leBytes_getElem? {n k : Nat} (v : Nat) (h : k < n) : (leBytes n v)[k]? = some (BitVec.ofNat 8 (v / 256 ^ k)) := by
  induction n generalizing k v with
  | zero => omega
  | succ n ih =>
    cases k with
    | zero => simp [leBytes]
    | succ k =>
      simp only [leBytes, List.getElem?_cons_succ]
      rw [ih _ (by omega), Nat.pow_succ', Nat.div_div_eq_div_mul]

/-- Bytes stored to addresses that are all apart read back as stored, where memory can be written. -/
theorem storeBytes_read_zip {cfg : Config} {as : List Nat} (hd : as.Nodup) (bs : List Byte) (m : Memory) {k a : Nat}
    {b : Byte} (ha : as[k]? = some a) (hb : bs[k]? = some b) (hw : writable cfg a = true) :
    Memory.read (storeBytes cfg (as.zip bs) m) a = b := by
  induction as generalizing bs m k with
  | nil => simp at ha
  | cons x t ih =>
    cases bs with
    | nil => simp at hb
    | cons y u =>
      rw [List.nodup_cons] at hd
      cases k with
      | zero =>
        simp only [List.getElem?_cons_zero, Option.some.injEq] at ha hb
        subst ha; subst hb
        simp only [storeBytes, List.zip_cons_cons, List.filter_cons, hw, if_true, Memory.writeAll]
        rw [Memory.read_writeAll_of_not_mem _ _ _ (fun c hc e => hd.1 (by
          have := (List.of_mem_zip (show (c.1, c.2) ∈ t.zip u from (List.mem_filter.1 hc).1)).1
          rw [e] at this; exact this)), Memory.read_write_self]
      | succ k =>
        simp only [List.getElem?_cons_succ] at ha hb
        have := fun m => ih hd.2 u m ha hb
        simp only [storeBytes, List.zip_cons_cons, List.filter_cons] at this ⊢
        split
        · exact this _
        · exact this _

/-- A store outside the data of every listed VMCS leaves the table as it is. -/
theorem forgetTouched_of_untouched {cfg : Config} {e : Nat} {as : List Nat} {t : List (Nat × Vmcs)}
    (h : ∀ a ∈ as, ∀ c ∈ t, inVmcsData cfg (BitVec.ofNat 64 c.1) a = false) : forgetTouched cfg e as t = t := by
  induction t with
  | nil => rfl
  | cons c t ih =>
    obtain ⟨k, v⟩ := c
    have hn : as.any (fun a => inVmcsData cfg (BitVec.ofNat 64 k) a) = false := by
      rw [List.any_eq_false]
      intro a ha
      rw [h a ha (k, v) List.mem_cons_self]
      decide
    have := ih (fun a ha c hc => h a ha c (List.mem_cons_of_mem _ hc))
    simp only [forgetTouched] at this ⊢
    simp only [Table.mapVal, this, hn]
    rfl

end Sys2Proof.Machine
end

