-- ==== Sys2Proof/Laws/Exec.lean ====
section
/-! SUPPORT. What each instruction can answer: one inversion lemma for each meaning. -/

namespace Sys2Proof.Machine

/-- The two outcomes every instruction may have beside its own effect: a raised exception, or a VM exit. -/
def Aside (c : Trigger) (s t : State) : Prop :=
  (∃ e, t = { s with raised := some e }) ∨ (s.vmxMode = .nonRoot ∧ vmExit c s = .next t)

theorem aside_raise {c : Trigger} {e : Exception} {s t : State} (h : raise e s = .next t) : Aside c s t :=
  .inl ⟨e, (Host.Outcome.next.inj h).symm⟩

theorem aside_stopWith {c : Trigger} {e : Stop} {s t : State} (h : stopWith s e = .next t) : Aside c s t :=
  .inl (stopWith_next h)

theorem aside_or {c : Trigger} {s t : State} {P : Prop}
    (h : (∃ e, t = { s with raised := some e }) ∨ (s.vmxMode = .nonRoot ∧ vmExit c s = .next t) ∨ P) :
    Aside c s t ∨ P := by
  rcases h with h | h | h
  · exact .inl (.inl h)
  · exact .inl (.inr h)
  · exact .inr h

theorem execVmcall_next {s t : State} (h : execVmcall s = .next t) : Aside (triggerOf .vmcall s) s t := by
  unfold execVmcall at h
  split at h
  · exact aside_raise h
  · split at h
    · rename_i m; exact .inr ⟨m, h⟩
    · split at h
      · exact aside_raise h
      · cases h

/-- A VM entry is tried only with a current VMCS that is no shadow VMCS and has the launch state required. -/
theorem enterWith_next {n : LaunchState} {l : Bool} {s t : State} (h : enterWith n l s = .next t) :
    vmFail s = .next t ∨ ∃ p, s.currentVmcs = some p ∧ headerShadow s.mem p = false
      ∧ (vmcsAt s p).launch = n ∧ vmEntry p l s = .next t := by
  unfold enterWith at h
  split at h
  · exact .inl h
  · rename_i p hp
    split at h
    · exact .inl h
    · rename_i sh
      split at h
      · cases h
      · split at h
        · exact .inl h
        · rename_i hl; exact .inr ⟨p, hp, by simpa using sh, Classical.not_not.1 hl, h⟩

theorem execVmlaunch_next {s t : State} (h : execVmlaunch s = .next t) :
    Aside (triggerOf .vmlaunch s) s t ∨ (RootReady s ∧ (vmFail s = .next t ∨ ∃ p, s.currentVmcs = some p
      ∧ headerShadow s.mem p = false ∧ (vmcsAt s p).launch = .clear ∧ vmEntry p true s = .next t)) := by
  rcases aside_or (vmxPrologue_next h) with h | ⟨r, h⟩
  · exact .inl h
  · exact .inr ⟨r, enterWith_next h⟩

theorem execVmresume_next {s t : State} (h : execVmresume s = .next t) :
    Aside (triggerOf .vmresume s) s t ∨ (RootReady s ∧ (vmFail s = .next t ∨ ∃ p, s.currentVmcs = some p
      ∧ headerShadow s.mem p = false ∧ (vmcsAt s p).launch = .launched ∧ vmEntry p false s = .next t)) := by
  rcases aside_or (vmxPrologue_next h) with h | ⟨r, h⟩
  · exact .inl h
  · exact .inr ⟨r, enterWith_next h⟩

theorem execVmxoff_next {s t : State} (h : execVmxoff s = .next t) :
    Aside (triggerOf .vmxoff s) s t ∨ (RootReady s ∧ vmSucceed { s with
      vmxMode := .outside
      vmcss := forgetActive (s.draws + 1) s.active s.vmcss } = .next t) :=
  aside_or (vmxPrologue_next h)

theorem execVmxon_next {m : MemOperand} {s t : State} (h : execVmxon m s = .next t) :
    Aside (triggerOf (.vmxon m) s) s t ∨ vmFail s = .next t
      ∨ (VmxonReady s ∧ VmxonSupported s ∧ ∃ q, readMem s m 8 = .ok q ∧ validPtr s.cfg q = true
        ∧ regionInMemory s.cfg q s.cfg.vmxonSize = true ∧ vmxonRegionOk s q = true
        ∧ vmSucceed { s with vmxMode := .root, vmxonPtr := q, currentVmcs := none } = .next t) := by
  unfold execVmxon at h
  split at h
  · exact .inl (aside_raise h)
  rename_i h0
  simp only [Bool.or_eq_true, Bool.not_eq_true', not_or, Bool.not_eq_false] at h0
  split at h
  · rename_i m
    split at h
    · exact .inl (.inr ⟨m, h⟩)
    · cases h
  · split at h
    · exact .inl (aside_raise h)
    · exact .inr (.inl h)
  · rename_i hm
    have hf : vmxonFail s = .next t → Aside (triggerOf (.vmxon m) s) s t ∨ vmFail s = .next t := by
      intro h
      unfold vmxonFail at h
      split at h
      · exact .inl (aside_raise h)
      · exact .inr h
    unfold vmxonOutside at h
    split at h
    · exact .inl (aside_raise h)
    rename_i hc
    split at h
    · exact .inl (aside_raise h)
    rename_i he
    split at h
    · rcases hf h with h | h
      · exact .inl h
      · exact .inr (.inl h)
    rename_i hk
    split at h
    · rcases hf h with h | h
      · exact .inl h
      · exact .inr (.inl h)
    rename_i ha
    split at h
    · exact .inl (aside_stopWith h)
    rename_i q hq
    unfold enterVmx at h
    split at h
    · cases h
    rename_i hr
    split at h
    · rename_i hv
      simp only [Bool.and_eq_true] at hv
      simp only [Bool.or_eq_true, Bool.not_eq_true', not_or, Bool.not_eq_false] at hk
      simp only [vmxonEnabled, Bool.not_eq_true', Bool.not_eq_false, Bool.and_eq_true] at he
      exact .inr (.inr ⟨⟨h0.1, h0.2, hm, Classical.not_not.1 hc, he.1, he.2⟩, ⟨hk.1, hk.2, by simpa using ha⟩,
        q, hq, hv.1, by simpa [hv.1] using hr, hv.2, h⟩)
    · exact .inr (.inl h)

theorem execVmptrld_next {m : MemOperand} {s t : State} (h : execVmptrld m s = .next t) :
    Aside (triggerOf (.vmptrld m) s) s t ∨ (RootReady s ∧ (vmFail s = .next t ∨ ∃ p, readMem s m 8 = .ok p
      ∧ offMemory s p = false ∧ loadable s p = true
      ∧ vmSucceed { s with active := activate p s.active, currentVmcs := some p } = .next t)) := by
  rcases aside_or (vmxPrologue_next h) with h | ⟨r, h⟩
  · exact .inl h
  · split at h
    · exact .inl (aside_stopWith h)
    · rename_i p hp
      split at h
      · cases h
      rename_i ho
      split at h
      · rename_i hl; exact .inr ⟨r, .inr ⟨p, hp, by simpa using ho, hl, h⟩⟩
      · exact .inr ⟨r, .inl h⟩

theorem execVmclear_next {m : MemOperand} {s t : State} (h : execVmclear m s = .next t) :
    Aside (triggerOf (.vmclear m) s) s t ∨ (RootReady s ∧ (vmFail s = .next t ∨ ∃ p, readMem s m 8 = .ok p
      ∧ offMemory s p = false ∧ validPtr s.cfg p = true ∧ p ≠ s.vmxonPtr ∧ vmSucceed (clearVmcs p s) = .next t)) := by
  rcases aside_or (vmxPrologue_next h) with h | ⟨r, h⟩
  · exact .inl h
  · split at h
    · exact .inl (aside_stopWith h)
    · rename_i p hp
      split at h
      · cases h
      rename_i ho
      split at h
      · rename_i hl
        simp only [Bool.and_eq_true, decide_eq_true_eq] at hl
        exact .inr ⟨r, .inr ⟨p, hp, by simpa using ho, hl.1, hl.2, h⟩⟩
      · exact .inr ⟨r, .inl h⟩

theorem execVmptrst_next {m : MemOperand} {s t : State} (h : execVmptrst m s = .next t) :
    Aside (triggerOf (.vmptrst m) s) s t ∨ (RootReady s ∧ ∃ u, writeMem s m 8 (currentPtrValue s) = .ok u ∧ vmSucceed u = .next t) := by
  rcases aside_or (vmxPrologue_next h) with h | ⟨r, h⟩
  · exact .inl h
  · split at h
    · exact .inl (aside_stopWith h)
    · rename_i u hu; exact .inr ⟨r, u, hu, h⟩

theorem execVmread_next {o : RmOperand} {r : Reg} {s t : State} (h : execVmread o r s = .next t) :
    Aside (triggerOf (.vmread o r) s) s t ∨ (RootReady s ∧ (vmFail s = .next t ∨ ∃ p f u, s.currentVmcs = some p
      ∧ selectField s r = some f ∧ writeRm s o (operandBytes s) (readAccess s p f) = .ok u
      ∧ vmSucceed u = .next t)) := by
  rcases aside_or (vmxPrologue_next h) with h | ⟨r, h⟩
  · exact .inl h
  · split at h
    · exact .inr ⟨r, .inl h⟩
    · exact .inr ⟨r, .inl h⟩
    · rename_i p f hp hf
      split at h
      · exact .inl (aside_stopWith h)
      · rename_i u hu; exact .inr ⟨r, .inr ⟨p, f, u, hp, hf, hu, h⟩⟩

theorem execVmwrite_next {o : RmOperand} {r : Reg} {s t : State} (h : execVmwrite r o s = .next t) :
    Aside (triggerOf (.vmwrite r o) s) s t ∨ (RootReady s ∧ (vmFail s = .next t ∨ ∃ p f x, s.currentVmcs = some p
      ∧ selectField s r = some f ∧ readRm s o (operandBytes s) = .ok x
      ∧ vmSucceed (putVmcs p (setField s.cfg f.field (writeAccess s p f x) (vmcsAt s p)) s) = .next t)) := by
  rcases aside_or (vmxPrologue_next h) with h | ⟨r, h⟩
  · exact .inl h
  · split at h
    · exact .inr ⟨r, .inl h⟩
    · exact .inr ⟨r, .inl h⟩
    · rename_i p f hp hf
      split at h
      · exact .inr ⟨r, .inl h⟩
      · split at h
        · exact .inl (aside_stopWith h)
        · rename_i x hx; exact .inr ⟨r, .inr ⟨p, f, x, hp, hf, hx, h⟩⟩

theorem execCpuid_next {s t : State} (h : execCpuid s = .next t) :
    Aside (triggerOf .cpuid s) s t ∨ t = complete { s with gprs := cpuidGprs s } := by
  rcases basePrologue_next h with h | h
  · exact .inl (.inr h)
  · exact .inr (Host.Outcome.next.inj h).symm

theorem privileged_aside {c : Trigger} {s t : State} {body : State → Result}
    (h : privileged c s body = .next t) : Aside c s t ∨ (cpl s = 0 ∧ body s = .next t) := by
  rcases privileged_next h with h | h | h
  · exact .inl (.inr h)
  · exact .inl (.inl h)
  · exact .inr h

theorem execWrmsr_next {s t : State} (h : execWrmsr s = .next t) :
    Aside (triggerOf .wrmsr s) s t ∨ (cpl s = 0 ∧ ∃ r, msrAt s.cfg ((gpr .rcx s).setWidth 32) = some r
      ∧ writeMsr r (edxEax s) s = .next t) := by
  rcases privileged_aside h with h | ⟨c, h⟩
  · exact .inl h
  · split at h
    · exact .inl (aside_raise h)
    · rename_i r hr; exact .inr ⟨c, r, hr, h⟩

theorem execRdmsr_next {s t : State} (h : execRdmsr s = .next t) :
    Aside (.plain .rdmsr) s t ∨ (cpl s = 0 ∧ ∃ r, msrAt s.cfg ((gpr .rcx s).setWidth 32) = some r
      ∧ t = complete (setGpr .rdx (readMsr s r >>> 32) (setGpr .rax (low32 (readMsr s r)) s))) := by
  rcases privileged_aside h with h | ⟨c, h⟩
  · exact .inl h
  · split at h
    · exact .inl (aside_raise h)
    · rename_i r hr; exact .inr ⟨c, r, hr, (Host.Outcome.next.inj h).symm⟩

/-- An accepted WRMSR changes one MSR; what it may not write raises #GP. -/
theorem writeMsr_next {r : Msr} {v : Word} {s t : State} (h : writeMsr r v s = .next t) :
    (∃ e, t = { s with raised := some e })
      ∨ (s.featureControl.getLsbD 0 = false ∧ enablesSupported s.cfg v = true ∧ v >>> 3 = 0
        ∧ t = complete { s with featureControl := v })
      ∨ t = complete { s with debugctl := v } ∨ t = complete { s with sysenterCs := v.setWidth 32 }
      ∨ t = complete { s with sysenterEsp := truncW s.cfg v } ∨ t = complete { s with sysenterEip := truncW s.cfg v }
      ∨ t = complete { s with perfGlobalCtrl := v } ∨ t = complete { s with pat := v }
      ∨ t = complete { s with efer := v }
      ∨ ∃ a : BitVec 32, t = complete { s with otherMsrs := Table.insert a.toNat v s.otherMsrs } := by
  cases r <;> simp only [writeMsr] at h
  case featureControl =>
    unfold writeFeatureControl at h
    split at h
    · exact .inl ⟨_, (Host.Outcome.next.inj h).symm⟩
    rename_i h1
    split at h
    · exact .inl ⟨_, (Host.Outcome.next.inj h).symm⟩
    rename_i h2
    split at h
    · cases h
    rename_i h3
    exact .inr (.inl ⟨by simpa using h1, by simpa using h2, Classical.not_not.1 h3, (Host.Outcome.next.inj h).symm⟩)
  case other a =>
    exact .inr (.inr (.inr (.inr (.inr (.inr (.inr (.inr (.inr ⟨a, (Host.Outcome.next.inj h).symm⟩))))))))
  all_goals
    have h := (Host.Outcome.next.inj h).symm
    first
    | exact .inl ⟨_, h⟩
    | simp only [h]; tauto

theorem writeCr0_next {v : Word} {s t : State} (h : writeCr0 v s = .next t) :
    (∃ e, t = { s with raised := some e }) ∨ (cr0Allowed s v = true ∧ t = complete { s with cr0 := v }) := by
  unfold writeCr0 at h
  split at h
  · rename_i a; exact .inr ⟨a, (Host.Outcome.next.inj h).symm⟩
  · exact .inl ⟨_, (Host.Outcome.next.inj h).symm⟩

theorem writeCr4_next {v : Word} {s t : State} (h : writeCr4 v s = .next t) :
    (∃ e, t = { s with raised := some e }) ∨ (cr4Allowed s v = true ∧ t = complete { s with cr4 := v }) := by
  unfold writeCr4 at h
  split at h
  · rename_i a
    simp only [Bool.and_eq_true] at a
    exact .inr ⟨a.1, (Host.Outcome.next.inj h).symm⟩
  · exact .inl ⟨_, (Host.Outcome.next.inj h).symm⟩

theorem execMovToCr_next {n : BitVec 4} {r : Reg} {s t : State} (h : execMovToCr n r s = .next t) :
    Aside (triggerOf (.movToCr n r) s) s t ∨ (cr0Allowed s (crSource r s) = true ∧ t = complete { s with cr0 := crSource r s })
      ∨ (cr4Allowed s (crSource r s) = true ∧ t = complete { s with cr4 := crSource r s })
      ∨ t = complete { s with cr2 := crSource r s } ∨ t = complete { s with cr3 := crSource r s }
      ∨ t = complete { s with cr8 := crSource r s } := by
  unfold execMovToCr at h
  split at h
  · exact .inl (aside_raise h)
  rcases privileged_aside h with h | ⟨-, h⟩
  · exact .inl h
  unfold writeCr at h
  split at h
  · rcases writeCr0_next h with h | h
    · exact .inl (.inl h)
    · exact .inr (.inl h)
  · exact .inr (.inr (.inr (.inl (Host.Outcome.next.inj h).symm)))
  · exact .inr (.inr (.inr (.inr (.inl (Host.Outcome.next.inj h).symm))))
  · rcases writeCr4_next h with h | h
    · exact .inl (.inl h)
    · exact .inr (.inr (.inl h))
  · unfold writeCr8 at h
    split at h
    · exact .inr (.inr (.inr (.inr (.inr (Host.Outcome.next.inj h).symm))))
    · exact .inl (aside_raise h)

theorem execMovFromCr_next {n : BitVec 4} {r : Reg} {s t : State} (h : execMovFromCr r n s = .next t) :
    Aside (triggerOf (.movFromCr r n) s) s t
      ∨ ∃ v, readCr s n = some v ∧ t = complete (setGpr r (truncTo (modeBits s) v) s) := by
  unfold execMovFromCr at h
  split at h
  · exact .inl (aside_raise h)
  · rename_i v hv
    rcases privileged_aside h with h | ⟨-, h⟩
    · exact .inl h
    · exact .inr ⟨v, hv, (Host.Outcome.next.inj h).symm⟩

theorem execClts_next {s t : State} (h : execClts s = .next t) :
    Aside (triggerOf .clts s) s t ∨ (cr0Allowed s (clearBit 3 s.cr0) = true ∧ t = complete { s with cr0 := clearBit 3 s.cr0 }) := by
  rcases privileged_aside h with h | ⟨-, h⟩
  · exact .inl h
  · rcases writeCr0_next h with h | h
    · exact .inl (.inl h)
    · exact .inr h

theorem execLmsw_next {o : RmOperand} {s t : State} (h : execLmsw o s = .next t) :
    Aside (triggerOf (.lmsw o) s) s t ∨ ∃ x, readRm s o 2 = .ok x ∧ cr0Allowed s (lmswValue s.cr0 x) = true
      ∧ t = complete { s with cr0 := lmswValue s.cr0 x } := by
  rcases privileged_aside h with h | ⟨-, h⟩
  · exact .inl h
  · split at h
    · exact .inl (aside_stopWith h)
    · rename_i x hx
      rcases writeCr0_next h with h | h
      · exact .inl (.inl h)
      · exact .inr ⟨x, hx, h⟩

theorem execGetsec_next {s t : State} (h : execGetsec s = .next t) :
    Aside (triggerOf .getsec s) s t ∨ (s.cfg.smx = true ∧ ∃ b, t = complete { s with smxOp := b }) := by
  unfold execGetsec at h
  split at h
  · exact .inl (aside_raise h)
  rename_i hs
  rcases basePrologue_next h with h | h
  · exact .inl (.inr h)
  · split at h
    · exact .inr ⟨by simpa using hs, true, (Host.Outcome.next.inj h).symm⟩
    · exact .inr ⟨by simpa using hs, false, (Host.Outcome.next.inj h).symm⟩
    · cases h

theorem execHlt_next {s t : State} (h : execHlt s = .next t) :
    Aside (triggerOf .hlt s) s t ∨ t = complete { s with activity := .hlt } := by
  rcases privileged_aside h with h | ⟨-, h⟩
  · exact .inl h
  · exact .inr (Host.Outcome.next.inj h).symm

theorem execMwait_next {s t : State} (h : execMwait s = .next t) :
    Aside (triggerOf .mwait s) s t ∨ t = complete { s with mwaitIdle := s.cfg.mwaitIdles } := by
  rcases basePrologue_next h with h | h
  · exact .inl (.inr h)
  · exact .inr (Host.Outcome.next.inj h).symm

theorem execSti_next {s t : State} (h : execSti s = .next t) :
    Aside (triggerOf .sti s) s t
      ∨ t = { complete { s with rflags := setBit 9 s.rflags } with blockingBySti := !s.rflags.getLsbD 9 } := by
  rcases basePrologue_next h with h | h
  · exact .inl (.inr h)
  · split at h
    · exact .inr (Host.Outcome.next.inj h).symm
    · exact .inl (aside_raise h)

end Sys2Proof.Machine
end

