-- ==== Sys2Proof/Laws/PerInstr.lean ====
section
/-! SUPPORT. The statements made instruction by instruction: every encoding is within the longest instruction. -/

namespace Sys2Proof.Laws

/-- An instruction's encoding has at least one byte and at most the 15 an instruction may have (30_encoding.md R118). -/
def EncodeLength.Statement (i : Instr) : Prop := 1 ≤ (encode i).length ∧ (encode i).length ≤ maxLength

theorem EncodeLength.within {n : Nat} (h : 3 ≤ n ∧ n ≤ 12) : 1 ≤ n ∧ n ≤ maxLength := by
  unfold maxLength; omega

theorem EncodeLength.vmcall : EncodeLength.Statement .vmcall := ⟨by decide, by decide⟩

theorem EncodeLength.vmlaunch : EncodeLength.Statement .vmlaunch := ⟨by decide, by decide⟩

theorem EncodeLength.vmresume : EncodeLength.Statement .vmresume := ⟨by decide, by decide⟩

theorem EncodeLength.vmxoff : EncodeLength.Statement .vmxoff := ⟨by decide, by decide⟩

theorem EncodeLength.vmptrld (m : MemOperand) : EncodeLength.Statement (.vmptrld m) :=
  EncodeLength.within (encodeMem_length [] (by decide) _ _ _ m)

theorem EncodeLength.vmclear (m : MemOperand) : EncodeLength.Statement (.vmclear m) :=
  EncodeLength.within (encodeMem_length [0x66#8] (by decide) _ _ _ m)

theorem EncodeLength.vmxon (m : MemOperand) : EncodeLength.Statement (.vmxon m) :=
  EncodeLength.within (encodeMem_length [0xF3#8] (by decide) _ _ _ m)

theorem EncodeLength.vmptrst (m : MemOperand) : EncodeLength.Statement (.vmptrst m) :=
  EncodeLength.within (encodeMem_length [] (by decide) _ _ _ m)

theorem EncodeLength.vmread (dst : RmOperand) (field : Reg) : EncodeLength.Statement (.vmread dst field) :=
  EncodeLength.within (encodeRm_length _ _ _ dst)

theorem EncodeLength.vmwrite (field : Reg) (src : RmOperand) : EncodeLength.Statement (.vmwrite field src) :=
  EncodeLength.within (encodeRm_length _ _ _ src)

theorem EncodeLength.cpuid : EncodeLength.Statement .cpuid := ⟨by decide, by decide⟩

theorem EncodeLength.wrmsr : EncodeLength.Statement .wrmsr := ⟨by decide, by decide⟩

theorem EncodeLength.movToCr (cr : BitVec 4) (src : Reg) : EncodeLength.Statement (.movToCr cr src) :=
  EncodeLength.within (encodeCr_length _ cr src)

theorem EncodeLength.movFromCr (dst : Reg) (cr : BitVec 4) : EncodeLength.Statement (.movFromCr dst cr) :=
  EncodeLength.within (encodeCr_length _ cr dst)

theorem EncodeLength.clts : EncodeLength.Statement .clts := ⟨by decide, by decide⟩

theorem EncodeLength.lmsw (src : RmOperand) : EncodeLength.Statement (.lmsw src) :=
  EncodeLength.within (encodeRm_length _ _ _ src)

theorem EncodeLength.getsec : EncodeLength.Statement .getsec := ⟨by decide, by decide⟩

theorem EncodeLength.hlt : EncodeLength.Statement .hlt := ⟨by decide, by decide⟩

theorem EncodeLength.mwait : EncodeLength.Statement .mwait := ⟨by decide, by decide⟩

theorem EncodeLength.sti : EncodeLength.Statement .sti := ⟨by decide, by decide⟩

end Sys2Proof.Laws
end

