-- ==== Sys2Proof/Laws/Step.lean ====
section
/-! SUPPORT. What one step does: the exception, the event or the instruction that is due. -/

namespace Sys2Proof.Machine

theorem step_raised {s : State} {e : Exception} (h : s.raised = some e) : step s = handOver e (freshen s) := by
  have h' : (freshen s).raised = some e := h
  unfold step cycle
  split <;> simp_all

theorem step_event {s : State} {e : Event} {t : List (Option Event)} (h : s.raised = none)
    (k : s.schedule = some e :: t) : step s = takeEvent e { freshen s with schedule := t } := by
  have h' : (freshen s).raised = none := h
  have k' : (freshen s).schedule = some e :: t := k
  unfold step cycle
  split <;> simp_all

theorem step_none {s : State} {t : List (Option Event)} (h : s.raised = none) (k : s.schedule = none :: t) :
    step s = proceed { freshen s with schedule := t } := by
  have h' : (freshen s).raised = none := h
  have k' : (freshen s).schedule = none :: t := k
  unfold step cycle
  split <;> simp_all

theorem step_quiet {s : State} (h : s.raised = none) (k : s.schedule = []) : step s = proceed (freshen s) := by
  have h' : (freshen s).raised = none := h
  have k' : (freshen s).schedule = [] := k
  unfold step cycle
  split <;> simp_all

theorem proceed_executing {s : State} (h : s.initPending = false) (a : s.activity = .active)
    (m : s.mwaitIdle = false) : proceed s = runInstr s := by
  simp [proceed, executing, h, a, m]

theorem proceed_inactive {s : State} (h : s.initPending = false) (a : executing s = false) : proceed s = .next s := by
  simp [proceed, h, a]

theorem runInstr_of_fetch {s : State} {i : Instr} {n : Nat} (h : fetch s = .ok (.instr i, n)) :
    runInstr s = exec i (withNext n s) := by
  simp [runInstr, h]

theorem runInstr_of_rdmsr {s : State} {n : Nat} (h : fetch s = .ok (.rdmsr, n)) :
    runInstr s = execRdmsr (withNext n s) := by
  simp [runInstr, h]

theorem exitOr_of_not {c : ExitCause} {s : State} (o : Result) (h : s.vmxMode ≠ .nonRoot ∨ exits s (.plain c) = false) :
    exitOr c s o = o := by
  unfold exitOr
  rcases h with h | h <;> simp [h]

theorem exitOr_exits {c : ExitCause} {s : State} (o : Result) (m : s.vmxMode = .nonRoot) (h : exits s (.plain c) = true) :
    exitOr c s o = vmExit (.plain c) s := by
  simp [exitOr, m, h]

end Sys2Proof.Machine
end

