-- ==== Sys2Proof/Tests/Slice0.lean ====
section
/-! SUPPORT. Tests: the well-formedness checks, decoding of written-out words, the vectors of 95_test_vectors.md (named in
each comment), the step from reset, and a witness for the hypotheses of every obligation. -/

namespace Sys2Proof.Tests

open Sys2Proof.Machine

/-! ## Well-formedness: one ill-formed term for each check -/

/-- The memory operand `[r]`. -/
def at_ (r : Reg) : MemOperand := ⟨none, false, .base r .none⟩

theorem test_wf_refuses_sib_base : (Instr.vmptrld ⟨none, false, .base .rsp .none⟩).wf = false := by decide
theorem test_wf_refuses_r12_base : (Instr.vmxon ⟨none, false, .base .r12 (.d8 0)⟩).wf = false := by decide
theorem test_wf_refuses_bare_rbp : (Instr.vmclear ⟨none, false, .base .rbp .none⟩).wf = false := by decide
theorem test_wf_refuses_bare_r13_sib : (Instr.lmsw (.mem ⟨none, false, .sib .r13 0 .rax .none⟩)).wf = false := by decide
theorem test_wf_refuses_ldtr_override : (Instr.vmptrst ⟨some .ldtr, false, .rel 0⟩).wf = false := by decide
theorem test_wf_refuses_tr_override : (Instr.vmread (.mem ⟨some .tr, false, .rel 0⟩) .rax).wf = false := by decide
theorem test_wf_refuses_source : (Instr.vmwrite .rax (.mem ⟨none, true, .base .rsp (.d32 1)⟩)).wf = false := by decide
theorem test_wf_refuses_bare_bp : (Instr.vmptrld ⟨none, false, .base16 .bp .none⟩).wf = false := by decide
theorem test_wf_admits : (Instr.vmwrite .rax (.mem ⟨some .gs, true, .sibNoBase 3 .rsp 0⟩)).wf = true := by decide

/-! ## Decoding: words written out from 30_encoding.md R119, R120 -/

theorem test_decode_vmcall : decode .code64 [0x0F#8, 0x01#8, 0xC1#8] = .ok (.vmcall, []) := by decide
theorem test_decode_vmlaunch : decode .code64 [0x0F#8, 0x01#8, 0xC2#8] = .ok (.vmlaunch, []) := by decide
theorem test_decode_vmresume : decode .code64 [0x0F#8, 0x01#8, 0xC3#8] = .ok (.vmresume, []) := by decide
theorem test_decode_vmxoff : decode .code64 [0x0F#8, 0x01#8, 0xC4#8] = .ok (.vmxoff, []) := by decide
/-- P2: ModR/M 32H is mod 00, reg 110, rm 010. -/
theorem test_decode_vmptrld : decode .code64 [0x0F#8, 0xC7#8, 0x32#8] = .ok (.vmptrld (at_ .rdx), []) := by decide
/-- P2. -/
theorem test_decode_vmclear : decode .code64 [0x66#8, 0x0F#8, 0xC7#8, 0x36#8] = .ok (.vmclear (at_ .rsi), []) := by decide
/-- P1. -/
theorem test_decode_vmxon : decode .code64 [0xF3#8, 0x0F#8, 0xC7#8, 0x36#8] = .ok (.vmxon (at_ .rsi), []) := by decide
/-- P1: ModR/M 3FH is mod 00, reg 111, rm 111. -/
theorem test_decode_vmptrst : decode .code64 [0x0F#8, 0xC7#8, 0x3F#8] = .ok (.vmptrst (at_ .rdi), []) := by decide
/-- P2: ModR/M C1H is mod 11, reg 000, rm 001. -/
theorem test_decode_vmread : decode .code64 [0x0F#8, 0x78#8, 0xC1#8] = .ok (.vmread (.reg .rcx) .rax, []) := by decide
/-- P2: ModR/M C3H is mod 11, reg 000, rm 011. -/
theorem test_decode_vmwrite : decode .code64 [0x0F#8, 0x79#8, 0xC3#8] = .ok (.vmwrite .rax (.reg .rbx), []) := by decide
theorem test_decode_cpuid : decode .code64 [0x0F#8, 0xA2#8] = .ok (.cpuid, []) := by decide
theorem test_decode_wrmsr : decode .code64 [0x0F#8, 0x30#8] = .ok (.wrmsr, []) := by decide
/-- P1: ModR/M E3H is mod 11, reg 100, rm 011. -/
theorem test_decode_movToCr : decode .code64 [0x0F#8, 0x22#8, 0xE3#8] = .ok (.movToCr 4 .rbx, []) := by decide
/-- REX.R 44H makes the control register number 8. -/
theorem test_decode_movFromCr : decode .code64 [0x44#8, 0x0F#8, 0x20#8, 0xC1#8] = .ok (.movFromCr .rcx 8, []) := by decide
theorem test_decode_clts : decode .code64 [0x0F#8, 0x06#8] = .ok (.clts, []) := by decide
/-- ModR/M F2H is mod 11, reg 110, rm 010. -/
theorem test_decode_lmsw : decode .code64 [0x0F#8, 0x01#8, 0xF2#8] = .ok (.lmsw (.reg .rdx), []) := by decide
theorem test_decode_getsec : decode .code64 [0x0F#8, 0x37#8] = .ok (.getsec, []) := by decide
theorem test_decode_hlt : decode .code64 [0xF4#8] = .ok (.hlt, []) := by decide
theorem test_decode_mwait : decode .code64 [0x0F#8, 0x01#8, 0xC9#8] = .ok (.mwait, []) := by decide
theorem test_decode_sti : decode .code64 [0xFB#8, 0x90#8] = .ok (.sti, [0x90#8]) := by decide

/-- FS override, 67H, REX.XB: `[R9 + R10*4 + 12345678H]`, displacement least significant byte first. -/
theorem test_decode_sib :
    decode .code64 [0x64#8, 0x67#8, 0x43#8, 0x0F#8, 0xC7#8, 0xB4#8, 0x91#8, 0x78#8, 0x56#8, 0x34#8, 0x12#8]
      = .ok (.vmptrld ⟨some .fs, true, .sib .r9 2 .r10 (.d32 0x12345678#32)⟩, []) := by decide
/-- 16-bit code: `[BP+SI+12H]`; with 67H the 32-bit form of the same ModR/M byte; 32-bit code with 67H. -/
theorem test_decode_addr16 :
    decode .code16 [0x0F#8, 0xC7#8, 0x72#8, 0x12#8] = .ok (.vmptrld ⟨none, false, .base16 .bpSi (.d8 0x12)⟩, [])
      ∧ decode .code16 [0x67#8, 0x0F#8, 0xC7#8, 0x72#8, 0x12#8] = .ok (.vmptrld ⟨none, true, .base .rdx (.d8 0x12)⟩, [])
      ∧ decode .code32 [0x67#8, 0x0F#8, 0xC7#8, 0x36#8, 0x34#8, 0x12#8]
        = .ok (.vmptrld ⟨none, true, .abs16 0x1234⟩, []) := by decide
/-- VMREAD excludes 66H (30_encoding.md R120, NP). -/
theorem test_decode_np : decode .code64 [0x66#8, 0x0F#8, 0x78#8, 0xC1#8] = .error (.prefixForbidden 0x78#8) := by decide
/-- A register operand of 0F C7 /6 is another instruction (30_encoding.md R121). -/
theorem test_decode_pointer_register : decode .code64 [0x0F#8, 0xC7#8, 0xF0#8] = .error (.unknownExtension 0xC7#8 0xF0#8) := by
  decide
theorem test_decode_truncated : decode .code64 [0x0F#8, 0xC7#8, 0xB4#8, 0x91#8, 0x78#8] = .error .truncated := by decide
/-- Table row numbers: the first byte is the least significant. -/
theorem test_table_vmxon : decodeTableWord 32 0x30C70FF3 = some (.vmxon (at_ .rax)) := by decide
theorem test_table_lmsw : decodeTableWord 24 0x30010F = some (.lmsw (.mem (at_ .rax))) := by decide

/-! ## Pointers and headers (V20, V10) -/

/-- PS1 with all operating modes admitted, as 95_test_vectors.md has it. -/
def ps1 : Config :=
  { familyConfig with vmxModes := [.realAddress, .virtual8086, .unpagedProtected, .pagedProtected, .compatibility, .mode64] }

/-- V20.4, V20.5, V20.6, V20.2. -/
theorem test_validPtr : validPtr ps1 0 = true ∧ validPtr ps1 0xFFFFFF000#64 = true ∧ validPtr ps1 0x1000000000#64 = false
    ∧ validPtr ps1 0x2008#64 = false := by decide

/-- V20.9, V20.11: with bit 48 of IA32_VMX_BASIC set, pointers have 32 bits. -/
theorem test_validPtr_narrow :
    validPtr { ps1 with vmxBasic := 0x0019100000000012#64 } 0x100000000#64 = false
      ∧ validPtr { ps1 with vmxBasic := 0x0019100000000012#64 } 0xFFFFF000#64 = true := by decide

/-- Bytes at an address. -/
def place (a : Nat) (bs : List Byte) (m : Memory) : Memory := Memory.writeAll ((List.range bs.length).map (a + ·) |>.zip bs) m

/-- V10.10, V10.11. -/
theorem test_header :
    headerRevision (place 0x2000 [0x12#8, 0#8, 0#8, 0x80#8] []) 0x2000 = 0x12
      ∧ headerShadow (place 0x2000 [0x12#8, 0#8, 0#8, 0x80#8] []) 0x2000 = true
      ∧ headerRevision (place 0x2000 [0xFF#8, 0xFF#8, 0xFF#8, 0x7F#8, 1#8] []) 0x2000 = 0x7FFFFFFF
      ∧ headerShadow (place 0x2000 [0xFF#8, 0xFF#8, 0xFF#8, 0x7F#8, 1#8] []) 0x2000 = false
      ∧ headerAbort (place 0x2000 [0xFF#8, 0xFF#8, 0xFF#8, 0x7F#8, 1#8] []) 0x2000 = 1 := by decide

/-- V10.7, V10.8: the access rights and the limit of a descriptor. -/
theorem test_descriptor : descriptorAccess 0x00CF9B00#32 = 0xC09B#32 ∧ descriptorLimit 0xFFFFF#20 true = 0xFFFFFFFF#32 := by
  decide

/-! ## States -/

/-- Memory of S41 (95_test_vectors.md V41), the VMXON region of S40, and a pointer operand at 500H. -/
def regions (ptr : Nat) : Memory :=
  place 0x100000 [0x12#8] (place 0x5000 [0x12#8, 0#8, 0#8, 0x80#8] (place 0x4000 [0x13#8] (place 0x3000 [0x12#8]
    (place 0x2000 [0x12#8] (place 0x500 (leBytes 8 ptr) [])))))

/-- S40: outside VMX operation in 64-bit mode at CPL 0, RSI at the operand, RDI at free memory, the instruction at
1000H. -/
def s40 (ptr : Nat) : State :=
  { State.reset with
    cfg := ps1
    cr0 := 0x80000021#64
    cr4 := 0x2000#64
    featureControl := 5
    gprs := { resetGprs with rsi := 0x500, rdi := 0x600, rcx := 0x3A, rdx := 0, rax := 5 }
    rip := 0x1000
    nextRip := 0x1003
    segs := { resetSegs with cs := ⟨8, 0, 0xFFFFFFFF#32, 0xA09B#32⟩, ss := ⟨0, 0, 0xFFFFFFFF#32, 0xC093#32⟩ }
    mem := regions ptr }

/-- S41: VMX root operation. -/
def s41 (ptr : Nat) : State := { s40 ptr with vmxMode := .root, vmxonPtr := 0x100000 }

/-- The state at CPL 3. -/
def cpl3 (s : State) : State := { s with segs := { s.segs with ss := ⟨0, 0, 0xFFFFFFFF#32, 0xC0F3#32⟩ } }

/-- The data of a VMCS with these fields written. -/
def data (l : List (Field × Word)) : List (Nat × Word) :=
  l.foldr (fun c t => Table.insert (fieldIdx c.1) c.2 t) []

/-- The fields of S42. -/
def s42Data : List (Nat × Word) := data
  [(.guest .rip, 0x7000), (.guest .rsp, 0x8000), (.guest .cr0, 0x80000021#64), (.guest .cr4, 0x2000),
    (.guest (.access .ss), 0xC0F3), (.guest (.access .cs), 0xA09B), (.guest .activity, 0),
    (.guest .interruptibility, 0), (.host .rip, 0x9000), (.host .rsp, 0xA000), (.host .cr0, 0x80000021#64),
    (.host .cr4, 0x2000), (.primaryProcCtls, 0), (.secondaryProcCtls, 0), (.entryCtls, 0), (.exitCtls, 0),
    (.cr0Mask, 0), (.cr4Mask, 0), (.cr0Shadow, 0), (.cr4Shadow, 0)]

/-- S42 with a launch state: VMCS 2000H active and current. RAX names the guest RIP field. -/
def s42 (l : LaunchState) (ptr : Nat) : State :=
  { s41 ptr with
    active := [0x2000]
    currentVmcs := some 0x2000
    vmcss := [(0x2000, ⟨l, s42Data, 0⟩)]
    gprs := { resetGprs with rsi := 0x500, rdi := 0x600, rax := 0x681E, rbx := 0x7777 } }

/-- S42N: the guest of S42 running in 64-bit mode. -/
def s42N : State := { s42 .launched 0x2000 with vmxMode := .nonRoot }

/-- The outcome is a next state with this property. -/
def gives (r : Host.Outcome State Fault Refusal) (f : State → Bool) : Bool :=
  match r with
  | .next t => f t
  | .fault _ => false
  | .refused _ => false

/-- The outcome is this refusal. -/
def refuses (r : Host.Outcome State Fault Refusal) (x : Refusal) : Bool :=
  match r with
  | .next _ => false
  | .fault _ => false
  | .refused y => decide (y = x)

/-! ## VMXON and VMXOFF (V40) -/

/-- V40.1. -/
theorem test_vmxon : gives (exec (.vmxon (at_ .rsi)) (s40 0x100000)) (fun t => decide (t.vmxMode = .root)
    && decide (t.vmxonPtr = 0x100000) && decide (t.currentVmcs = none) && decide (t.rip = 0x1003)) = true := by decide
/-- V40.3: #UD before #GP. -/
theorem test_vmxon_ud : gives (exec (.vmxon (at_ .rsi)) { s40 0x100000 with cr4 := 0, featureControl := 0 })
    (fun t => decide (t.raised = some .invalidOpcode) && decide (t.vmxMode = .outside)) = true := by decide
/-- V40.21. -/
theorem test_vmxoff : gives (exec .vmxoff (s42 .clear 0x2000)) (fun t => decide (t.vmxMode = .outside)
    && decide (t.cr4 = 0x2000) && decide (t.currentVmcs = some 0x2000) && decide (t.active = [0x2000])) = true := by decide
/-- D10: a VMCS that VMXOFF finds active is undefined, an inactive one stays. -/
theorem test_vmxoff_active : gives (exec .vmxoff { s42 .clear 0 with
      vmcss := [(0x2000, ⟨.clear, s42Data, 0⟩), (0x3000, ⟨.launched, [], 0⟩)] }) (fun t =>
    decide ((vmcsAt t 0x2000).launch = .undefined) && decide ((vmcsAt t 0x3000).launch = .launched)) = true := by decide
/-- V40.23. -/
theorem test_vmxoff_cpl3 : gives (exec .vmxoff (cpl3 (s41 0x2000)))
    (fun t => decide (t.raised = some .generalProtection) && decide (t.vmxMode = .root)) = true := by decide

/-! ## VMCS maintenance (V41) -/

/-- V41.2, from a state with another VMCS current. -/
theorem test_vmptrld : gives (exec (.vmptrld (at_ .rsi)) (s42 .clear 0x3000)) (fun t =>
    decide (t.active = [0x2000, 0x3000]) && decide (t.currentVmcs = some 0x3000)) = true := by decide
/-- V41.5: a shadow VMCS without support; by G2 CF is 1. -/
theorem test_vmptrld_shadow : gives (exec (.vmptrld (at_ .rsi)) (s41 0x5000)) (fun t =>
    t.failed && decide (t.active = []) && decide (t.currentVmcs = none) && decide (t.rflags = 0x3)) = true := by decide
/-- V41.12: the eight bytes, lowest address first. -/
theorem test_vmptrst : gives (exec (.vmptrst (at_ .rdi)) (s42 .clear 0x2000)) (fun t =>
    decide ((List.range 8).map (fun i => Memory.read t.mem (0x600 + i))
      = [0x00#8, 0x20#8, 0#8, 0#8, 0#8, 0#8, 0#8, 0#8])) = true := by decide
/-- 20_memory.md R94: a platform whose page 0 is read-only memory keeps its bytes. -/
theorem test_vmptrst_readOnly : gives (exec (.vmptrst (at_ .rdi)) { s42 .clear 0x2000 with
      cfg := { ps1 with memMap := [⟨0, 0x603, .readOnly⟩] } }) (fun t =>
    decide ((List.range 8).map (fun i => Memory.read t.mem (0x600 + i)) = [0#8, 0#8, 0#8, 0#8, 0#8, 0#8, 0#8, 0#8])
      && !t.failed) = true := by decide
/-- V41.13. -/
theorem test_vmptrst_none : gives (exec (.vmptrst (at_ .rdi)) (s41 0x2000)) (fun t =>
    decide ((List.range 10).map (fun i => Memory.read t.mem (0x5FF + i))
      = [0#8, 0xFF#8, 0xFF#8, 0xFF#8, 0xFF#8, 0xFF#8, 0xFF#8, 0xFF#8, 0xFF#8, 0#8])) = true := by decide
/-- V41.16: the state of VMCS 2000H and its data. -/
theorem test_vmclear : gives (exec (.vmclear (at_ .rsi)) { s42 .launched 0x2000 with active := [0x2000, 0x3000] })
    (fun t => decide (t.active = [0x3000]) && decide (t.currentVmcs = none)
      && decide ((vmcsAt t 0x2000).launch = .clear)) = true := by decide
/-- V41.20. -/
theorem test_vmclear_unaligned : gives (exec (.vmclear (at_ .rsi)) (s41 0x2004)) (fun t =>
    t.failed && decide (t.active = []) && decide (t.vmcss = [])) = true := by decide
/-- V41.25, the read. -/
theorem test_vmread : gives (exec (.vmread (.reg .rbx) .rax) (s42 .clear 0x2000)) (fun t =>
    decide (t.gprs.rbx = 0x7000) && !t.failed) = true := by decide
/-- V41.24: no current VMCS. -/
theorem test_vmread_none : gives (exec (.vmread (.reg .rbx) .rax) { s42 .clear 0x2000 with currentVmcs := none })
    (fun t => decide (t.gprs.rbx = 0x7777) && t.failed) = true := by decide
/-- V41.26: a 32-bit field keeps the low 32 bits. -/
theorem test_vmwrite_narrow : gives (exec (.vmwrite .rax (.reg .rbx)) { s42 .clear 0x2000 with
      gprs := { resetGprs with rax := 0x4816, rbx := 0xFFFFFFFF0000C09B#64 } })
    (fun t => decide (fieldVal t.cfg 0x2000 (vmcsAt t 0x2000) (.guest (.access .cs)) = 0xC09B)) = true := by decide
/-- V41.29: an exit-information field. -/
theorem test_vmwrite_exitInfo : gives (exec (.vmwrite .rax (.reg .rbx)) { s42 .clear 0x2000 with
      gprs := { resetGprs with rax := 0x4402, rbx := 1 } }) (fun t => t.failed) = true := by decide

/-! ## VM entries and VM exits (V42) -/

/-- V42.1. -/
theorem test_vmlaunch : gives (exec .vmlaunch (s42 .clear 0x2000)) (fun t => decide (t.vmxMode = .nonRoot)
    && decide ((vmcsAt t 0x2000).launch = .launched) && decide (t.rip = 0x7000) && decide (t.gprs.rsp = 0x8000)
    && decide (t.cr0 = 0x80000021#64) && decide (cpl t = 3) && decide (t.activity = .active)
    && decide (t.gprs.rbx = 0x7777)) = true := by decide
/-- V42.6. -/
theorem test_vmlaunch_launched : gives (exec .vmlaunch (s42 .launched 0x2000)) (fun t => t.failed
    && decide (t.vmxMode = .root) && decide ((vmcsAt t 0x2000).launch = .launched)) = true := by decide
/-- V42.7. -/
theorem test_vmresume : gives (exec .vmresume (s42 .launched 0x2000)) (fun t => decide (t.vmxMode = .nonRoot)
    && decide ((vmcsAt t 0x2000).launch = .launched) && decide (t.rip = 0x7000)) = true := by decide
/-- V42.2. -/
theorem test_vmresume_clear : gives (exec .vmresume (s42 .clear 0x2000)) (fun t => t.failed
    && decide (t.vmxMode = .root)) = true := by decide
/-- V42.16: the saved guest and the host that runs. -/
theorem test_vmcall : gives (exec .vmcall (cpl3 { s42N with
      rip := 0x7000
      gprs := { resetGprs with rsp := 0x7FF0, rax := 0x55 } }))
    (fun t => decide (fieldVal t.cfg 0x2000 (vmcsAt t 0x2000) (.guest .rip) = 0x7000)
      && decide (fieldVal t.cfg 0x2000 (vmcsAt t 0x2000) (.guest .rsp) = 0x7FF0)
      && decide (fieldVal t.cfg 0x2000 (vmcsAt t 0x2000) (.guest (.access .ss)) = 0xC0F3)
      && decide (t.rip = 0x9000) && decide (t.gprs.rsp = 0xA000) && decide (cpl t = 0)
      && decide (t.segs.cs.base = 0) && decide (t.segs.cs.access = 0xA09B)
      && decide (t.vmxMode = .root) && decide (t.gprs.rax = 0x55)) = true := by decide
/-- G10 (MOV CR and LMSW by control settings): with TS (bit 3) and PE masked and their shadows 0, a source that sets TS
exits, one that leaves the masked bits at their shadow does not; LMSW exits for TS, and for PE only to set it. -/
theorem test_exit_masked :
    let s := { s42N with vmcss := [(0x2000, ⟨.launched, Table.insert (fieldIdx .cr0Mask) 9 s42Data, 0⟩)] }
    let at_ := fun (i : Reg → Instr) (v : Word) =>
      let u := { s with gprs := { s.gprs with rbx := v } }
      exits u (triggerOf (i .rbx) u)
    at_ (.movToCr 0) 0x80000028#64 = true ∧ at_ (.movToCr 0) 0x80000020#64 = false ∧ at_ (.movToCr 3) 8 = false
      ∧ at_ (fun r => .lmsw (.reg r)) 8 = true ∧ at_ (fun r => .lmsw (.reg r)) 1 = true
      ∧ at_ (fun r => .lmsw (.reg r)) 6 = false := by decide
/-- 42_vm_entry_exit.md R199: what MOV CR0, RBX and LMSW from memory record. -/
theorem test_exit_records :
    recordValues s42N (operandsOf s42N (.movToCr 0 .rbx)) (crRecord 0) = ⟨28, 0x300, 0⟩
      ∧ recordValues s42N { noOperands with source := some 0xFFF9, address := some 0x500 } lmswRecord
        = ⟨28, 0xFFF90070, 0⟩ := by decide
/-- 42_vm_entry_exit.md R196: a VM-exit control selects whether RSP is loaded. -/
theorem test_exit_hostRules :
    gives (exec .vmcall { s42N with
      cfg := { ps1 with hostRules := [⟨.rsp, [⟨.exitCtls, 1, 1, true⟩]⟩] }
      gprs := { resetGprs with rsp := 0x7FF0 } })
      (fun t => decide (t.gprs.rsp = 0x7FF0) && decide (t.rip = 0x9000)) = true := by decide
/-- 60_exceptions.md R256: a SIPI that `EXITING` lists exits in the active state too; by R244 it is refused there else. -/
theorem test_sipi_active :
    gives (step { s42N with cfg := { ps1 with exiting := [⟨.sipi, []⟩] }, schedule := [some .sipi] })
      (fun t => decide (t.vmxMode = .root) && decide (t.rip = 0x9000)) = true
      ∧ refuses (step { s42N with schedule := [some .sipi] }) .sipiNotWaiting = true := by decide
/-- 20_memory.md R96: a translation that walks a table at CR3 (one byte for each page), and answers otherwise in A20M mode
and in VMX non-root operation. -/
theorem test_translate :
    let c := { ps1 with translation :=
      [⟨[⟨.sys .a20m, .const 1, true⟩], .read, none⟩, ⟨[⟨.sys .vmxMode, .const 2, true⟩], .read, some (.const 7)⟩,
        ⟨[], .read, some (.byte (.op .add (.reg .cr3) (.op .shr (.operand .address) (.const 12))))⟩] }
    let s := { s40 0 with cfg := c, cr3 := 0x8000, mem := place 0x8000 [5#8, 9#8] [] }
    Machine.translate s .read 0x1234 = .ok 0x9234 ∧ Machine.translate s .read 0x234 = .ok 0x5234
      ∧ Machine.translate { s with vmxMode := .nonRoot } .read 0x234 = .ok 0x7234
      ∧ Machine.translate { s with a20m := true } .read 0x234 = .error (.exn .operandAccess) := by decide
/-- 20_memory.md R99, R80: in the data of an active VMCS a term reads the free byte of software's loads; beyond the
physical address space it has no value. -/
theorem test_termByte : termByte s42N 0x2007 = some 0 ∧ processorOwned s42N 0x2008 = true
    ∧ termByte s42N 0x2008 = some (loadByte s42N 0x2008) ∧ termByte s42N (2 ^ 36) = none := ⟨by decide, by decide, rfl, by decide⟩
/-- V42.19. -/
theorem test_vmcall_root : refuses (exec .vmcall (s41 0x2000)) .vmcallInRoot = true := by decide

/-! ## Base instructions (V43) -/

/-- V42.21: CPUID exits and writes no register. -/
theorem test_cpuid_exits : gives (exec .cpuid s42N) (fun t => decide (t.vmxMode = .root)
    && decide (t.gprs.rbx = 0x7777) && decide (t.rip = 0x9000)) = true := by decide
/-- V43.5. -/
theorem test_wrmsr : gives (exec .wrmsr { s40 0 with featureControl := 0 }) (fun t =>
    decide (t.featureControl = 5) && decide (t.raised = none)) = true := by decide
/-- V43.7. -/
theorem test_wrmsr_locked : gives (exec .wrmsr (s40 0)) (fun t =>
    decide (t.featureControl = 5) && decide (t.raised = some .generalProtection)) = true := by decide
/-- V43.16. -/
theorem test_movToCr : gives (exec (.movToCr 4 .rbx) { s40 0 with cr4 := 0, gprs := { resetGprs with rbx := 0x2000 } })
    (fun t => decide (t.cr4 = 0x2000)) = true := by decide
/-- V43.17. -/
theorem test_movToCr_fixed : gives (exec (.movToCr 0 .rbx) { s41 0 with gprs := { resetGprs with rbx := 0x21 } })
    (fun t => decide (t.cr0 = 0x80000021#64) && decide (t.raised = some .generalProtection)) = true := by decide
/-- 30_encoding.md R120: the destination is the general register. -/
theorem test_movFromCr : gives (exec (.movFromCr .rbx 0) (s41 0))
    (fun t => decide (t.gprs.rbx = 0x80000021#64)) = true := by decide
/-- V43.19. -/
theorem test_clts : gives (exec .clts { s41 0 with cr0 := 0x80000029#64 })
    (fun t => decide (t.cr0 = 0x80000021#64)) = true := by decide
/-- V43.20: bit 3 fixed to 1. -/
theorem test_clts_fixed : gives (exec .clts { s41 0 with
      cfg := { ps1 with cr0Fixed0 := 0x80000029#64 }, cr0 := 0x80000029#64 })
    (fun t => decide (t.cr0 = 0x80000029#64) && decide (t.raised = some .generalProtection)) = true := by decide
/-- 43_base_instructions.md R216: PE stays 1, bits 3:1 come from the source. -/
theorem test_lmsw : gives (exec (.lmsw (.reg .rbx)) { s41 0 with gprs := { resetGprs with rbx := 0xFFF8 } })
    (fun t => decide (t.cr0 = 0x80000029#64)) = true := by decide
/-- V43.23. -/
theorem test_getsec : gives (exec .getsec { s40 0 with cfg := { ps1 with smx := true }, gprs := { resetGprs with rax := 4 } })
    (fun t => t.smxOp) = true := by decide
/-- V43.24. -/
theorem test_hlt : gives (exec .hlt (s40 0)) (fun t => decide (t.activity = .hlt)) = true := by decide
/-- 10_state.md R72: MWAIT leaves the activity state. -/
theorem test_mwait : gives (exec .mwait (s40 0)) (fun t => decide (t.activity = .active) && t.mwaitIdle) = true := by decide
/-- 43_base_instructions.md R221. -/
theorem test_sti : gives (exec .sti (s40 0)) (fun t => decide (t.rflags = 0x202) && t.blockingBySti) = true := by decide

/-! ## The step and the state after reset -/

/-- V70.3: VMXON right after reset raises #UD. -/
theorem test_step_reset_vmxon : gives (step (State.reset.withFetchWord 32 0x30C70FF3))
    (fun t => decide (t.raised = some .invalidOpcode)) = true := by decide
/-- A program's first instruction after reset: HLT at the reset vector. -/
theorem test_step_reset_hlt : gives (step (State.reset.withFetchWord 8 0xF4))
    (fun t => decide (t.activity = .hlt) && decide (t.rip = 0xFFF1)) = true := by decide
/-- 43_base_instructions.md R212: RDMSR of IA32_VMX_BASIC at 1000H, EDX:EAX. -/
theorem test_step_rdmsr : gives (step { s40 0 with
      gprs := { resetGprs with rcx := 0x480 }, mem := place 0x1000 [0x0F#8, 0x32#8] [] })
    (fun t => decide (t.gprs.rax = 0x12) && decide (t.gprs.rdx = 0x181000) && decide (t.rip = 0x1002)) = true := by decide
/-- 42_vm_entry_exit.md R199: the records of the family's causes tell all of them apart. -/
theorem test_exitInfo_distinct : (familyExitInfo.map (fun x => recordValues s42N noOperands x.2)).Nodup
    ∧ (familyExitInfo.map Prod.fst).Nodup := by decide
/-- P1, step 2: WRMSR at 1000H in 64-bit mode; RIP advances by its two bytes. -/
theorem test_step_wrmsr : gives (step { s40 0 with featureControl := 0, mem := place 0x1000 [0x0F#8, 0x30#8] [] })
    (fun t => decide (t.featureControl = 5) && decide (t.rip = 0x1002)) = true := by decide

/-! ## Witnesses: for each obligation with hypotheses, a state and operands that meet them, clause by clause -/

/-- DecodeOfEncode: the longest form; and a form with neither prefix nor displacement. -/
theorem witness_DecodeOfEncode :
    (Instr.vmxon ⟨some .gs, true, .sib .r13 3 .r12 (.d32 0xFFFFFFFF#32)⟩).wf = true
      ∧ spelledIn .code64 (Instr.vmxon ⟨some .gs, true, .sib .r13 3 .r12 (.d32 0xFFFFFFFF#32)⟩) = true
      ∧ (Instr.vmread (.reg .r15) .r8).wf = true ∧ spelledIn .code64 (Instr.vmread (.reg .r15) .r8) = true := by decide

theorem witness_DecodeOfEncodeLegacy :
    (Instr.vmclear ⟨some .es, false, .sib .rbx 1 .rsp (.d8 0x80#8)⟩).wf = true
      ∧ spelledIn .code32 (Instr.vmclear ⟨some .es, false, .sib .rbx 1 .rsp (.d8 0x80#8)⟩) = true
      ∧ (Instr.vmptrst ⟨none, false, .base16 .bp (.d16 0x8000)⟩).wf = true
      ∧ spelledIn .code16 (Instr.vmptrst ⟨none, false, .base16 .bp (.d16 0x8000)⟩) = true
      ∧ spelledIn .code32 (Instr.vmptrst ⟨none, true, .abs16 0xFFFF⟩) = true
      ∧ (Instr.movToCr 7 .rdi).wf = true ∧ spelledIn .code32 (Instr.movToCr 7 .rdi) = true := by decide

theorem witness_DecodedIsWellFormed :
    decode .code64 [0x65#8, 0x0F#8, 0xC7#8, 0x75#8, 0x00#8, 0xAA#8] = .ok (.vmptrld ⟨some .gs, false, .base .rbp (.d8 0)⟩, [0xAA#8])
      ∧ decode .code32 [0x0F#8, 0xC7#8, 0x35#8, 1#8, 2#8, 3#8, 4#8] = .ok (.vmptrld ⟨none, false, .rel 0x04030201#32⟩, []) := by
  decide

theorem witness_PointerRegisterForms : modOf 0xF0#8 = 3#2 ∧ modOf 0xFF#8 = 3#2 := by decide

/-- A state of S40 with bytes at the program counter. -/
def running (bs : List Byte) : State := { s40 0 with mem := place 0x1000 bs [] }

theorem witness_StepRunsDecoded : (running [0xFB#8]).raised = none ∧ (running [0xFB#8]).schedule = []
    ∧ (running [0xFB#8]).initPending = false ∧ (running [0xFB#8]).activity = .active
    ∧ (running [0xFB#8]).mwaitIdle = false ∧ segUsable (running [0xFB#8]) .cs = true
    ∧ decode (codeSize (running [0xFB#8])) (fetchBytes (freshen (running [0xFB#8])) maxLength (fetchAddr (running [0xFB#8]))).1
      = .ok (.sti, List.replicate 14 0#8) := by decide

theorem witness_StepRunsEncoded : mode64 (running (encode .cpuid)) = true ∧ Instr.cpuid.wf = true
    ∧ spelledIn .code64 .cpuid = true
    ∧ (fetchBytes (freshen (running (encode .cpuid))) maxLength (fetchAddr (running (encode .cpuid)))).1
      = encode .cpuid ++ List.replicate 13 0#8
    ∧ (running (encode .cpuid)).raised = none ∧ (running (encode .cpuid)).schedule = []
    ∧ (running (encode .cpuid)).initPending = false ∧ (running (encode .cpuid)).activity = .active
    ∧ (running (encode .cpuid)).mwaitIdle = false := by decide

/-- Inactive by the activity state, and by MWAIT. -/
theorem witness_InactiveExecutesNothing :
    (({ s40 0 with activity := .shutdown } : State).activity ≠ .active ∧ (s40 0).raised = none
      ∧ (s40 0).schedule = [] ∧ (s40 0).initPending = false)
      ∧ ({ s40 0 with mwaitIdle := true } : State).mwaitIdle = true := by decide

theorem witness_ResetEvents :
    ({ s42N with schedule := [some .powerUpReset] } : State).schedule = some .powerUpReset :: [] ∧ s42N.raised = none
      ∧ ({ s42N with schedule := [some .warmReset] } : State).schedule = some .warmReset :: []
      ∧ (0x2000 : Word) ∈ s42N.active := by decide

/-- The guest of S42 is a legal state within its widths. -/
theorem witness_LegalState : LegalState s42N where
  config := ⟨by decide, by decide, by decide⟩
  memory := by decide
  vmcss := by decide
  otherMsrs := by decide
  active := by decide
  current := fun p h => by cases h; decide
  fixedBits := by decide
  a20m := by decide
  guest := fun _ => ⟨0x2000, rfl, by decide, by decide, by decide⟩
  smx := by decide
  featureControl := by decide

theorem witness_InWidths : InWidths s42N where
  control := by decide
  general := fun r => by cases r <;> decide
  pointers := by decide
  bases := fun g => by cases g <;> decide
  narrowBases := by decide
  tables := by decide
  sysenter := by decide

/-- The guest's VMCALL at its program counter: a step to a next state, with the lock bit of IA32_FEATURE_CONTROL set. -/
def guestStep : State := { s42N with mem := place 0x1000 [0x0F#8, 0x01#8, 0xC1#8] (regions 0x2000) }

/-- StepKeepsLegal, StepKeepsWidths, ParametersConstant, LockedFeatureControl. -/
theorem witness_step : (∃ t, step guestStep = .next t) ∧ guestStep.featureControl.getLsbD 0 = true := by
  refine ⟨?_, by decide⟩
  have h : gives (step guestStep) (fun t => decide (t.vmxMode = .root)) = true := by decide
  cases hs : step guestStep with
  | next t => exact ⟨t, rfl⟩
  | fault f => rw [hs] at h; cases h
  | refused r => rw [hs] at h; cases h

theorem witness_guestStep_legal : LegalState guestStep where
  config := ⟨by decide, by decide, by decide⟩
  memory := by decide
  vmcss := by decide
  otherMsrs := by decide
  active := by decide
  current := fun p h => by cases h; decide
  fixedBits := by decide
  a20m := by decide
  guest := fun _ => ⟨0x2000, rfl, by decide, by decide, by decide⟩
  smx := by decide
  featureControl := by decide

/-- From a next state with a property to the next state. -/
theorem exists_next {r : Host.Outcome State Fault Refusal} {f : State → Bool} (h : gives r f = true) :
    ∃ t, r = .next t ∧ f t = true := by
  cases r with
  | next t => exact ⟨t, rfl, h⟩
  | fault x => cases h
  | refused x => cases h

/-- ModeTransitions: each of the four ways. -/
theorem witness_ModeTransitions :
    (∃ t, exec (.vmxon (at_ .rsi)) (s40 0x100000) = .next t ∧ t.vmxMode ≠ .outside)
      ∧ (∃ t, exec .vmlaunch (s42 .clear 0) = .next t ∧ t.vmxMode ≠ .root)
      ∧ (∃ t, exec .vmcall s42N = .next t ∧ t.vmxMode ≠ .nonRoot)
      ∧ ∃ t, exec .vmxoff (s41 0) = .next t ∧ t.vmxMode ≠ .root := by
  have h1 : gives (exec (.vmxon (at_ .rsi)) (s40 0x100000)) (fun t => decide (t.vmxMode ≠ .outside)) = true := by decide
  have h2 : gives (exec .vmlaunch (s42 .clear 0)) (fun t => decide (t.vmxMode ≠ .root)) = true := by decide
  have h3 : gives (exec .vmcall s42N) (fun t => decide (t.vmxMode ≠ .nonRoot)) = true := by decide
  have h4 : gives (exec .vmxoff (s41 0)) (fun t => decide (t.vmxMode ≠ .root)) = true := by decide
  obtain ⟨a, a1, a2⟩ := exists_next h1
  obtain ⟨b, b1, b2⟩ := exists_next h2
  obtain ⟨c, c1, c2⟩ := exists_next h3
  obtain ⟨d, d1, d2⟩ := exists_next h4
  exact ⟨⟨a, a1, by simpa using a2⟩, ⟨b, b1, by simpa using b2⟩, ⟨c, c1, by simpa using c2⟩, ⟨d, d1, by simpa using d2⟩⟩

/-- A VMPTRST into the data of the inactive VMCS 3000H. -/
def intoVmcs : State :=
  { s42 .clear 0x2000 with
    gprs := { resetGprs with rdi := 0x3100 }
    vmcss := [(0x2000, ⟨.clear, s42Data, 0⟩), (0x3000, ⟨.launched, [], 0⟩)] }

/-- LaunchStateChanges: each of the four ways. -/
theorem witness_LaunchStateChanges :
    (∃ t, exec .vmlaunch (s42 .clear 0) = .next t ∧ (vmcsAt t 0x2000).launch ≠ .clear)
      ∧ (∃ t, exec (.vmclear (at_ .rsi)) (s42 .launched 0x2000) = .next t ∧ (vmcsAt t 0x2000).launch ≠ .launched)
      ∧ (∃ t, exec (.vmptrst (at_ .rdi)) intoVmcs = .next t ∧ (vmcsAt t 0x3000).launch ≠ .launched)
      ∧ ∃ t, exec .vmxoff (s42 .clear 0) = .next t ∧ (vmcsAt t 0x2000).launch ≠ .clear := by
  have h1 : gives (exec .vmlaunch (s42 .clear 0)) (fun t => decide ((vmcsAt t 0x2000).launch ≠ .clear)) = true := by decide
  have h2 : gives (exec (.vmclear (at_ .rsi)) (s42 .launched 0x2000))
    (fun t => decide ((vmcsAt t 0x2000).launch ≠ .launched)) = true := by decide
  have h3 : gives (exec (.vmptrst (at_ .rdi)) intoVmcs)
    (fun t => decide ((vmcsAt t 0x3000).launch ≠ .launched)) = true := by decide
  have h4 : gives (exec .vmxoff (s42 .clear 0)) (fun t => decide ((vmcsAt t 0x2000).launch ≠ .clear)) = true := by decide
  obtain ⟨a, a1, a2⟩ := exists_next h1
  obtain ⟨b, b1, b2⟩ := exists_next h2
  obtain ⟨c, c1, c2⟩ := exists_next h3
  obtain ⟨d, d1, d2⟩ := exists_next h4
  exact ⟨⟨a, a1, by simpa using a2⟩, ⟨b, b1, by simpa using b2⟩, ⟨c, c1, by simpa using c2⟩, ⟨d, d1, by simpa using d2⟩⟩

/-- ActiveAndCurrentChanges, MemoryWriters: next states of VMPTRLD, VMCLEAR, VMPTRST and an instruction that changes
neither. -/
theorem witness_next :
    (∃ t, exec (.vmptrld (at_ .rsi)) (s42 .clear 0x3000) = .next t)
      ∧ (∃ t, exec (.vmclear (at_ .rsi)) (s42 .clear 0x2000) = .next t)
      ∧ (∃ t, exec (.vmptrst (at_ .rdi)) (s42 .clear 0) = .next t) ∧ ∃ t, exec .clts (s41 0) = .next t := by
  have h1 : gives (exec (.vmptrld (at_ .rsi)) (s42 .clear 0x3000)) (fun _ => true) = true := by decide
  have h2 : gives (exec (.vmclear (at_ .rsi)) (s42 .clear 0x2000)) (fun _ => true) = true := by decide
  have h3 : gives (exec (.vmptrst (at_ .rdi)) (s42 .clear 0)) (fun _ => true) = true := by decide
  have h4 : gives (exec .clts (s41 0)) (fun _ => true) = true := by decide
  obtain ⟨a, a1, -⟩ := exists_next h1
  obtain ⟨b, b1, -⟩ := exists_next h2
  obtain ⟨c, c1, -⟩ := exists_next h3
  obtain ⟨d, d1, -⟩ := exists_next h4
  exact ⟨⟨a, a1⟩, ⟨b, b1⟩, ⟨c, c1⟩, ⟨d, d1⟩⟩

/-- GuestCannotTell: CLTS, and LMSW from memory. -/
theorem witness_GuestCannotTell : isVmx .clts = false ∧ s42N.vmxMode = .nonRoot ∧ exits s42N (triggerOf .clts s42N) = false
    ∧ exits s42N (triggerOf (.lmsw (.mem (at_ .rsi))) s42N) = false
    ∧ (∀ p, s42N.currentVmcs = some p → unrestrictedGuest s42N.cfg p (vmcsAt s42N p) = false)
    ∧ ∀ lin, Machine.translate { s42N with vmxMode := .root } .read lin = Machine.translate s42N .read lin :=
  ⟨rfl, rfl, by decide, by decide, fun p h => by cases h; decide, fun _ => rfl⟩

/-- VmxonEnters, with the highest valid pointer too. -/
theorem witness_VmxonEnters : VmxonReady (s40 0x100000) ∧ VmxonSupported (s40 0x100000)
    ∧ readMem (s40 0x100000) (at_ .rsi) 8 = .ok 0x100000#64 ∧ validPtr (s40 0x100000).cfg 0x100000#64 = true
    ∧ regionInMemory (s40 0x100000).cfg 0x100000#64 (s40 0x100000).cfg.vmxonSize = true
    ∧ vmxonRegionOk (s40 0x100000) 0x100000#64 = true ∧ validPtr (s40 0).cfg 0xFFFFFF000#64 = true := by decide

/-- VmxonFaults: VMXE clear; lock clear; bit 1 clear in SMX operation; bit 2 clear outside it. -/
theorem witness_VmxonFaults :
    ({ s40 0 with cr4 := 0 } : State).cr4.getLsbD 13 = false
      ∧ ((s40 0).cr4.getLsbD 13 = true ∧ modeOk (s40 0) = true ∧ (s40 0).vmxMode = .outside)
      ∧ ({ s40 0 with featureControl := 4 } : State).featureControl.getLsbD 0 = false
      ∧ (({ s40 0 with featureControl := 5, smxOp := true } : State).smxOp = true
        ∧ ({ s40 0 with featureControl := 5, smxOp := true } : State).featureControl.getLsbD 1 = false)
      ∧ (s40 0).smxOp = false ∧ ({ s40 0 with featureControl := 3 } : State).featureControl.getLsbD 2 = false := by decide

/-- VmxonFailsUnsupported: PG clear, and A20M mode, under both kinds of failure. -/
theorem witness_VmxonFailsUnsupported :
    (VmxonReady { s40 0 with cr0 := 0x21 } ∧ ¬ VmxonSupported { s40 0 with cr0 := 0x21 }
      ∧ ({ s40 0 with cr0 := 0x21 } : State).cfg.vmxonFailKind = .gp)
      ∧ VmxonReady { s40 0 with a20m := true, cfg := { ps1 with vmxonFailKind := .vmfail } }
      ∧ ¬ VmxonSupported { s40 0 with a20m := true, cfg := { ps1 with vmxonFailKind := .vmfail } } := by decide

/-- VmxonVmfails: in VMX root operation; an unaligned pointer; a region with another revision identifier. -/
theorem witness_VmxonVmfails :
    (RootReady (s41 0) ∧ (s41 0).cr4.getLsbD 13 = true)
      ∧ (VmxonReady (s40 0x100008) ∧ VmxonSupported (s40 0x100008)
        ∧ readMem (s40 0x100008) (at_ .rsi) 8 = .ok 0x100008#64 ∧ validPtr (s40 0).cfg 0x100008#64 = false)
      ∧ (readMem (s40 0x4000) (at_ .rsi) 8 = .ok 0x4000#64 ∧ regionInMemory (s40 0x4000).cfg 0x4000#64 (s40 0x4000).cfg.vmxonSize = true
        ∧ vmxonRegionOk (s40 0x4000) 0x4000#64 = false) := by decide

theorem witness_VmxoffLeaves : RootReady (s42 .clear 0) ∧ (0x2000 : Word) ∈ (s42 .clear 0).active
    ∧ (0x3000 : Word) ∉ (s42 .clear 0).active := by decide

/-- VmxUnavailable: outside VMX operation; a wrong operating mode; CPL 3 in VMX root operation, and for VMXON outside. -/
theorem witness_VmxUnavailable :
    (isVmx .vmcall = true ∧ (s40 0).vmxMode = .outside)
      ∧ modeOk { s41 0 with cfg := { ps1 with vmxModes := [] } } = false
      ∧ ((cpl3 (s41 0)).vmxMode = .root ∧ modeOk (cpl3 (s41 0)) = true ∧ (cpl3 (s41 0)).cr4.getLsbD 13 = true
        ∧ cpl (cpl3 (s41 0)) ≠ 0)
      ∧ ((cpl3 (s40 0)).vmxMode = .outside ∧ modeOk (cpl3 (s40 0)) = true ∧ (cpl3 (s40 0)).cr4.getLsbD 13 = true
        ∧ cpl (cpl3 (s40 0)) ≠ 0) := by decide

theorem witness_VmptrldLoads : RootReady (s41 0x2000) ∧ readMem (s41 0x2000) (at_ .rsi) 8 = .ok 0x2000#64
    ∧ validPtr (s41 0x2000).cfg 0x2000#64 = true ∧ (0x2000#64 : Word) ≠ (s41 0x2000).vmxonPtr
    ∧ regionInMemory (s41 0x2000).cfg 0x2000#64 (vmcsSize (s41 0x2000).cfg) = true
    ∧ headerRevision (s41 0x2000).mem 0x2000#64 = vmcsRevision (s41 0x2000).cfg
    ∧ (headerShadow (s41 0x2000).mem 0x2000#64 = true → (s41 0x2000).cfg.shadowVmcs = true) := by decide

/-- PointerFails: each of the four reasons. -/
theorem witness_PointerFails :
    (regionInMemory ps1 0x4000#64 (vmcsSize ps1) = true ∧ regionInMemory ps1 0x5000#64 (vmcsSize ps1) = true) ∧
    (RootReady (s41 0x2008) ∧ readMem (s41 0x2008) (at_ .rsi) 8 = .ok 0x2008#64 ∧ validPtr ps1 0x2008#64 = false)
      ∧ (readMem (s41 0x100000) (at_ .rsi) 8 = .ok 0x100000#64 ∧ (0x100000#64 : Word) = (s41 0x100000).vmxonPtr)
      ∧ (readMem (s41 0x4000) (at_ .rsi) 8 = .ok 0x4000#64
        ∧ headerRevision (s41 0x4000).mem 0x4000#64 ≠ vmcsRevision ps1)
      ∧ (readMem (s41 0x5000) (at_ .rsi) 8 = .ok 0x5000#64 ∧ headerShadow (s41 0x5000).mem 0x5000#64 = true
        ∧ ps1.shadowVmcs = false) := by decide

/-- VmptrstStores: with and without a current VMCS; no VMCS is touched, and the inactive one is. -/
theorem witness_VmptrstStores :
    (RootReady (s42 .clear 0)
      ∧ Storable (s42 .clear 0) (at_ .rdi) 8 [0x600, 0x601, 0x602, 0x603, 0x604, 0x605, 0x606, 0x607])
      ∧ (s42 .clear 0).currentVmcs = some 0x2000
      ∧ Untouched (s42 .clear 0) [0x600, 0x601, 0x602, 0x603, 0x604, 0x605, 0x606, 0x607]
      ∧ Storable (s41 0) (at_ .rdi) 8 [0x600, 0x601, 0x602, 0x603, 0x604, 0x605, 0x606, 0x607]
      ∧ (s41 0).currentVmcs = none
      ∧ Storable intoVmcs (at_ .rdi) 8 [0x3100, 0x3101, 0x3102, 0x3103, 0x3104, 0x3105, 0x3106, 0x3107]
      ∧ inVmcsData intoVmcs.cfg 0x3000 0x3100 = true ∧ inVmcsData intoVmcs.cfg 0x2000 0x3100 = false := by decide

theorem witness_VmclearClears : RootReady (s42 .launched 0x2000)
    ∧ readMem (s42 .launched 0x2000) (at_ .rsi) 8 = .ok 0x2000#64 ∧ validPtr (s42 .launched 0x2000).cfg 0x2000#64 = true
    ∧ (0x2000#64 : Word) ≠ (s42 .launched 0x2000).vmxonPtr
    ∧ regionInMemory (s42 .launched 0x2000).cfg 0x2000#64 (vmcsSize (s42 .launched 0x2000).cfg) = true := by decide

/-- VmcsStateDiagram: VMCLEAR and VMPTRLD of 2000H, VMPTRLD of 3000H, VMLAUNCH. -/
theorem witness_VmcsStateDiagram :
    RootReady (s42 .clear 0x2000) ∧ (0x2000#64 : Word) ≠ 0x3000#64
      ∧ readMem (s42 .clear 0x2000) (at_ .rsi) 8 = .ok 0x2000#64 ∧ validPtr ps1 0x2000#64 = true
      ∧ (0x2000#64 : Word) ≠ (s42 .clear 0x2000).vmxonPtr ∧ loadable (s42 .clear 0x2000) 0x2000#64 = true
      ∧ readMem (s42 .clear 0x3000) (at_ .rsi) 8 = .ok 0x3000#64 ∧ loadable (s42 .clear 0x3000) 0x3000#64 = true
      ∧ (s42 .clear 0).currentVmcs = some 0x2000#64 ∧ (0x2000#64 : Word) ∈ (s42 .clear 0).active
      ∧ (vmcsAt (s42 .clear 0) 0x2000#64).launch = .clear
      ∧ gives (exec .vmlaunch (s42 .clear 0)) (fun t => decide (t.vmxMode = .nonRoot)) = true := by decide

/-- VmreadRegister: a whole field, and the high half of a 64-bit one. -/
theorem witness_VmreadRegister : RootReady (s42 .clear 0) ∧ (s42 .clear 0).currentVmcs = some 0x2000
    ∧ selectField (s42 .clear 0) .rax = some ⟨.guest .rip, false⟩
    ∧ selectField { s42 .clear 0 with gprs := { resetGprs with rax := 0x2803 } } .rax
      = some ⟨.guest .debugctl, true⟩ := by decide

/-- VmreadMemory: a whole field, and the high half of a 64-bit one. -/
theorem witness_VmreadMemory : RootReady (s42 .clear 0) ∧ (s42 .clear 0).currentVmcs = some 0x2000
    ∧ selectField (s42 .clear 0) .rax = some ⟨.guest .rip, false⟩
    ∧ Storable (s42 .clear 0) (at_ .rdi) (operandBits (s42 .clear 0) / 8)
      [0x600, 0x601, 0x602, 0x603, 0x604, 0x605, 0x606, 0x607]
    ∧ Untouched (s42 .clear 0) [0x600, 0x601, 0x602, 0x603, 0x604, 0x605, 0x606, 0x607]
    ∧ selectField { s42 .clear 0 with gprs := { resetGprs with rdi := 0x600, rax := 0x2803 } } .rax
      = some ⟨.guest .debugctl, true⟩
    ∧ Storable { s42 .clear 0 with gprs := { resetGprs with rdi := 0x600, rax := 0x2803 } } (at_ .rdi) 8
      [0x600, 0x601, 0x602, 0x603, 0x604, 0x605, 0x606, 0x607] := by decide

/-- VmwriteWrites: a whole field from a register, and the high half of a 64-bit one from memory. -/
theorem witness_VmwriteWrites : RootReady (s42 .clear 0) ∧ (s42 .clear 0).currentVmcs = some 0x2000
    ∧ selectField (s42 .clear 0) .rax = some ⟨.guest .rip, false⟩
    ∧ (isExitInfo (.guest .rip) = true → (s42 .clear 0).cfg.exitInfoWritable = true)
    ∧ readRm (s42 .clear 0) (.reg .rbx) (operandBits (s42 .clear 0) / 8) = .ok 0x7777#64
    ∧ selectField { s42 .clear 0x1234 with gprs := { resetGprs with rsi := 0x500, rax := 0x2803 } } .rax
      = some ⟨.guest .debugctl, true⟩
    ∧ isExitInfo (.guest .debugctl) = false
    ∧ readRm { s42 .clear 0x1234 with gprs := { resetGprs with rsi := 0x500, rax := 0x2803 } } (.mem (at_ .rsi))
      (operandBits (s42 .clear 0) / 8) = .ok 0x1234#64 := by decide

/-- VmreadVmwriteFail: no current VMCS; an operand that names no field; a read-only field. -/
theorem witness_VmreadVmwriteFail : RootReady (s41 0) ∧ (s41 0).currentVmcs = none
    ∧ selectField { s42 .clear 0 with gprs := { resetGprs with rax := 0xFFFFFFFF#64 } } .rax = none
    ∧ selectField { s42 .clear 0 with gprs := { resetGprs with rax := 0x4400 } } .rax
      = some ⟨.vmInstructionError, false⟩
    ∧ isExitInfo .vmInstructionError = true ∧ (s42 .clear 0).cfg.exitInfoWritable = false := by decide

theorem witness_VmentryEntersGuest :
    (RootReady (s42 .clear 0) ∧ (s42 .clear 0).currentVmcs = some 0x2000
      ∧ headerShadow (s42 .clear 0).mem 0x2000 = false ∧ entryCheck (s42 .clear 0) 0x2000 = .pass
      ∧ (vmcsAt (s42 .clear 0) 0x2000).launch = .clear)
      ∧ entryCheck (s42 .launched 0) 0x2000 = .pass ∧ (vmcsAt (s42 .launched 0) 0x2000).launch = .launched := by decide

/-- EntryCheckRejects: checks that pass, with and without an unrestricted guest (V42.10). -/
theorem witness_EntryCheckRejects : entryCheck (s42 .clear 0) 0x2000 = .pass
    ∧ unrestrictedGuest ps1 0x2000 (vmcsAt (s42 .clear 0) 0x2000) = false
    ∧ unrestrictedGuest { ps1 with unrestrictedGuest := true } 0x2000
      ⟨.clear, data [(.primaryProcCtls, 0x80000000#64), (.secondaryProcCtls, 0x80)], 0⟩ = true := by decide

/-- VmentryFails: no current VMCS, a shadow VMCS, the wrong launch states, a check that fails early. -/
theorem witness_VmentryFails :
    (RootReady (s41 0) ∧ (s41 0).currentVmcs = none)
      ∧ headerShadow ({ s42 .clear 0 with currentVmcs := some 0x5000 } : State).mem 0x5000 = true
      ∧ (headerShadow (s42 .launched 0).mem 0x2000 = false ∧ (vmcsAt (s42 .launched 0) 0x2000).launch = .launched)
      ∧ (vmcsAt (s42 .clear 0) 0x2000).launch = .clear
      ∧ entryCheck { s42 .clear 0 with entryVerdicts := [.failEarly] } 0x2000 = .failEarly
      ∧ entryCheck { s42 .launched 0 with entryVerdicts := [.failEarly] } 0x2000 = .failEarly := by decide

theorem witness_VmentryFailsLate : RootReady { s42 .clear 0 with entryVerdicts := [.failLate] }
    ∧ ({ s42 .clear 0 with entryVerdicts := [.failLate] } : State).currentVmcs = some 0x2000
    ∧ headerShadow (s42 .clear 0).mem 0x2000 = false ∧ (vmcsAt (s42 .clear 0) 0x2000).launch = .clear
    ∧ entryCheck { s42 .clear 0 with entryVerdicts := [.failLate] } 0x2000 = .failLate
    ∧ entryCheck { s42 .launched 0 with entryVerdicts := [.failLate] } 0x2000 = .failLate
    ∧ (vmcsAt (s42 .launched 0) 0x2000).launch = .launched
    ∧ lookupExitInfo .entryFailure (s42 .clear 0).cfg.exitInfo = some (plainRecord 0x80000021) := by decide

/-- VmcallExits, at CPL 3 too; ExitReplacesInstruction with CPUID, and with VMXON. -/
theorem witness_VmcallExits : s42N.vmxMode = .nonRoot ∧ modeOk s42N = true ∧ modeOk (cpl3 s42N) = true
    ∧ s42N.currentVmcs = some 0x2000 ∧ lookupExitInfo .vmcall s42N.cfg.exitInfo = some (plainRecord 18)
    ∧ exitReached .cpuid s42N = true ∧ exits s42N (triggerOf .cpuid s42N) = true
    ∧ lookupExitInfo (causeOf .cpuid) s42N.cfg.exitInfo = some (plainRecord 10)
    ∧ exitReached (.vmxon (at_ .rsi)) s42N = true ∧ exits s42N (triggerOf (.vmxon (at_ .rsi)) s42N) = true
    ∧ lookupExitInfo (causeOf (.vmxon (at_ .rsi))) s42N.cfg.exitInfo = some (plainRecord 27) := by decide

/-- Refused: VMCALL in VMX root operation; an undefined launch state; a guest with no exiting; a store into the data of
the active VMCS, by VMPTRST and by VMREAD; an exit without a record. -/
theorem witness_Refused :
    RootReady (s41 0)
      ∧ (RootReady (s42 .undefined 0) ∧ (s42 .undefined 0).currentVmcs = some 0x2000
        ∧ headerShadow (s42 .undefined 0).mem 0x2000 = false ∧ (vmcsAt (s42 .undefined 0) 0x2000).launch = .undefined)
      ∧ (isVmx .vmxoff = true ∧ Instr.vmxoff ≠ .vmcall
        ∧ exitReached .vmxoff { s42N with cfg := { ps1 with exiting := [] } } = true
        ∧ exits { s42N with cfg := { ps1 with exiting := [] } } (triggerOf .vmxoff { s42N with cfg := { ps1 with exiting := [] } }) = false)
      ∧ (segUsable { s42 .clear 0 with gprs := { resetGprs with rdi := 0x2008 } } (operandSeg (at_ .rdi)) = true
        ∧ physAddrs { s42 .clear 0 with gprs := { resetGprs with rdi := 0x2008 } } .write 8
            (linearAddr { s42 .clear 0 with gprs := { resetGprs with rdi := 0x2008 } } (at_ .rdi))
          = .ok [0x2008, 0x2009, 0x200A, 0x200B, 0x200C, 0x200D, 0x200E, 0x200F]
        ∧ processorOwned (s42 .clear 0) 0x2008 = true ∧ processorOwned (s42 .clear 0) 0x2007 = false)
      ∧ (selectField { s42 .clear 0 with gprs := { resetGprs with rdi := 0x2008, rax := 0x681E } } .rax
          = some ⟨.guest .rip, false⟩
        ∧ physAddrs { s42 .clear 0 with gprs := { resetGprs with rdi := 0x2008, rax := 0x681E } } .write
            (operandBits (s42 .clear 0) / 8)
            (linearAddr { s42 .clear 0 with gprs := { resetGprs with rdi := 0x2008, rax := 0x681E } } (at_ .rdi))
          = .ok [0x2008, 0x2009, 0x200A, 0x200B, 0x200C, 0x200D, 0x200E, 0x200F])
      ∧ (exitReached .cpuid s42N = true ∧ exits { s42N with cfg := { ps1 with exitInfo := [] } } (triggerOf .cpuid { s42N with cfg := { ps1 with exitInfo := [] } }) = true
        ∧ s42N.currentVmcs = some 0x2000 ∧ lookupExitInfo (causeOf .cpuid) ({ ps1 with exitInfo := [] } : Config).exitInfo = none) := by
  decide

/-- A memory map with a device at 0 to 6FFH, nothing at 800H to FFFH, nothing at 2800H to 2FFFH,
read-only memory at 3000H to 3FFFH, and a device at 100FFFH. -/
def mapped (s : State) : State :=
  { s with cfg := { s.cfg with
      memMap := [⟨0, 0x6FF, .device⟩, ⟨0x800, 0xFFF, .absent⟩, ⟨0x2800, 0x2FFF, .absent⟩, ⟨0x3000, 0x3FFF, .readOnly⟩,
        ⟨0x100FFF, 0x100FFF, .device⟩] } }

/-- Refused, the memory map: the first and the last address of a device and of what is absent; operands there; regions of
which a part is not in memory. -/
theorem witness_Refused_map :
    (inMap (mapped (s41 0)).cfg .absent 0x6FF = false ∧ inMap (mapped (s41 0)).cfg .device 0x6FF = true
      ∧ inMap (mapped (s41 0)).cfg .device 0x700 = false ∧ inMap (mapped (s41 0)).cfg .absent 0x800 = true
      ∧ inMap (mapped (s41 0)).cfg .absent 0xFFF = true)
      ∧ RootReady (mapped (s41 0)) ∧ segUsable (mapped (s41 0)) (operandSeg (at_ .rsi)) = true
      ∧ Machine.translate (mapped (s41 0)) .read (linearAddr (mapped (s41 0)) (at_ .rsi)) = .error (.refuse .deviceAccess)
      ∧ Machine.translate (mapped (s41 0)) .write (linearAddr (mapped (s41 0)) (at_ .rdi)) = .error (.refuse .deviceAccess)
      ∧ (let s := { mapped (s41 0) with gprs := { resetGprs with rsi := 0x5000 }, mem := place 0x5000 (leBytes 8 0x2000) [] }
        readMem s (at_ .rsi) 8 = .ok 0x2000#64 ∧ validPtr s.cfg 0x2000 = true
          ∧ regionInMemory s.cfg 0x2000 (vmcsSize s.cfg) = false ∧ regionInMemory s.cfg 0x3000 (vmcsSize s.cfg) = true)
      ∧ (let s := { mapped (s40 0) with gprs := { resetGprs with rsi := 0x5000 }, mem := place 0x5000 (leBytes 8 0x100000) [] }
        VmxonReady s ∧ VmxonSupported s ∧ readMem s (at_ .rsi) 8 = .ok 0x100000#64 ∧ validPtr s.cfg 0x100000 = true
          ∧ regionInMemory s.cfg 0x100000 s.cfg.vmxonSize = false) := by decide

/-- S41 in protected mode, where a segment can be unusable; and S41 where page 0 faults. -/
def noDs (s : State) : State :=
  { s with segs := { s.segs with cs := ⟨8, 0, 0xFFFFFFFF#32, 0xC09B#32⟩, ds := ⟨0, 0, 0, 0x10000#32⟩ } }

/-- The linear address lies in this 4-KByte page. -/
def pageIs (n : Word) : TermCond := ⟨.op .shr (.operand .address) (.const 12), .const n, true⟩

/-- The state with the 4-KByte page at 0 faulting for reads and writes. -/
def noPage (s : State) : State :=
  { s with cfg := { s.cfg with translation := [⟨[pageIs 0], .read, none⟩, ⟨[pageIs 0], .write, none⟩] } }

/-- OperandFaults: an unusable segment, for a VMX instruction in VMX root operation, for VMXON, for a field access and for
LMSW. -/
theorem witness_OperandFaults :
    (RootReady (noDs (s42 .clear 0)) ∧ OperandRaises (noDs (s42 .clear 0)) (at_ .rsi) .read 8 .unusableSegment)
      ∧ (VmxonReady (noDs (s40 0)) ∧ VmxonSupported (noDs (s40 0))
        ∧ OperandRaises (noDs (s40 0)) (at_ .rsi) .read 8 .unusableSegment)
      ∧ selectField (noDs (s42 .clear 0)) .rax = some ⟨.guest .rip, false⟩
      ∧ OperandRaises (noDs (s42 .clear 0)) (at_ .rdi) .write (operandBits (noDs (s42 .clear 0)) / 8) .unusableSegment
      ∧ (NotExiting (.lmsw (.mem (at_ .rsi))) (noDs (s41 0)) ∧ cpl (noDs (s41 0)) = 0
        ∧ OperandRaises (noDs (s41 0)) (at_ .rsi) .read 2 .unusableSegment) := by decide

/-- OperandFaults: an access that `Translate` faults, in the same four. -/
theorem witness_OperandFaults_translation :
    (RootReady (noPage (s42 .clear 0)) ∧ OperandRaises (noPage (s42 .clear 0)) (at_ .rsi) .read 8 .operandAccess)
      ∧ OperandRaises (noPage (s42 .clear 0)) (at_ .rdi) .write 8 .operandAccess
      ∧ (VmxonReady (noPage (s40 0)) ∧ VmxonSupported (noPage (s40 0))
        ∧ OperandRaises (noPage (s40 0)) (at_ .rsi) .read 8 .operandAccess)
      ∧ OperandRaises (noPage (s42 .clear 0)) (at_ .rdi) .read (operandBits (noPage (s42 .clear 0)) / 8) .operandAccess
      ∧ OperandRaises (noPage (s41 0)) (at_ .rsi) .read 2 .operandAccess := by decide

/-- CpuidReports: the two leaves, outside VMX operation and in a guest whose controls let CPUID run. -/
theorem witness_CpuidReports : NotExiting .cpuid (s40 0)
    ∧ NotExiting .cpuid { s42N with cfg := { ps1 with exiting := [] } }
    ∧ (gpr .rax { s40 0 with gprs := { resetGprs with rax := 1 } }).setWidth 32 = 1#32
    ∧ (gpr .rax { s40 0 with gprs := { resetGprs with rax := 0x80000008#64 } }).setWidth 32 = 0x80000008#32 := by decide

/-- WrmsrFeatureControl: the values 5, 7 and 0DH of V43.5, V43.8, V43.13. -/
theorem witness_WrmsrFeatureControl : NotExiting .wrmsr (s40 0) ∧ cpl (s40 0) = 0
    ∧ (gpr .rcx (s40 0)).setWidth 32 = 0x3A#32
    ∧ (5#64 : Word) = (gpr .rdx (s40 0)).setWidth 32 ++ (gpr .rax (s40 0)).setWidth 32
    ∧ (7#64 : Word).getLsbD 1 = true ∧ (0xD#64 : Word).extractLsb' 3 61 ≠ 0 ∧ (7#64 : Word).extractLsb' 3 61 = 0 := by
  decide

/-- MsrAccess: a writable MSR, a read-only one, one of the processor's others, and an address without one; RDMSR at
CPL 0 and 3, and of a capability MSR without VMX. -/
theorem witness_MsrAccess : ((s40 0).vmxMode = .nonRoot → exits (s40 0) (.plain .rdmsr) = false)
    ∧ ((cpl3 (s40 0)).vmxMode = .nonRoot → exits (cpl3 (s40 0)) (.plain .rdmsr) = false)
    ∧ (s42N.vmxMode = .nonRoot → exits { s42N with cfg := { ps1 with exiting := [] } } (.plain .rdmsr) = false) ∧ cpl (cpl3 (s40 0)) ≠ 0
    ∧ msrAt { ps1 with vmx := false } 0x480#32 = none ∧ NotExiting .wrmsr (s40 0) ∧ cpl (s40 0) = 0
    ∧ (5#64 : Word) = (gpr .rdx (s40 0)).setWidth 32 ++ (gpr .rax (s40 0)).setWidth 32
    ∧ msrAt ps1 0x174#32 = some .sysenterCs ∧ msrAt ps1 0x480#32 = some .vmxBasic
    ∧ msrAt { ps1 with otherMsrs := [0x10#32] } 0x10#32 = some (.other 0x10#32) ∧ msrAt ps1 0x10#32 = none := by decide

/-- The value of RBX as a move to a control register takes it. -/
def rbx (s : State) (v : Word) : State := { s with gprs := { resetGprs with rbx := v } }

/-- MovToCr0: admitted and not, in VMX root operation; anything outside it. -/
theorem witness_MovToCr0 : NotExiting (.movToCr 0 .rbx) (s41 0) ∧ NotExiting (.movToCr 0 .rbx) s42N ∧ cpl (s41 0) = 0
    ∧ (0x80000029#64 : Word) = truncTo (if mode64 (s41 0) then 64 else 32) (gpr .rbx (rbx (s41 0) 0x80000029#64))
    ∧ cr0Allowed (s41 0) 0x80000029#64 = true ∧ cr0Allowed (s41 0) 0x21#64 = false
    ∧ cr0Allowed (s40 0) 0x21#64 = true := by decide

/-- CltsClearsTs, LmswWrites: the values with bit 3 cleared and with bits 3:0 from the source. -/
theorem witness_CltsClearsTs : NotExiting .clts (s41 0) ∧ cpl (s41 0) = 0
    ∧ (∀ n, n < 64 → (0x80000021#64 : Word).getLsbD n = ((0x80000029#64 : Word).getLsbD n && !decide (n = 3)))
    ∧ cr0Allowed (s41 0) 0x80000021#64 = true
    ∧ cr0Allowed { s41 0 with cfg := { ps1 with cr0Fixed0 := 0x80000029#64 } } 0x80000021#64 = false := by decide

theorem witness_LmswWrites : NotExiting (.lmsw (.reg .rbx)) (rbx (s41 0) 0xFFF8) ∧ cpl (s41 0) = 0
    ∧ readRm (rbx (s41 0) 0xFFF8) (.reg .rbx) 2 = .ok 0xFFF8#64
    ∧ (∀ n, n < 64 → (0x80000029#64 : Word).getLsbD n = if n = 0 then (0x80000021#64 : Word).getLsbD 0 || (0xFFF8#64 : Word).getLsbD 0
      else if n < 4 then (0xFFF8#64 : Word).getLsbD n else (0x80000021#64 : Word).getLsbD n)
    ∧ cr0Allowed (s41 0) 0x80000029#64 = true := by decide

/-- `Cr0Admitted` in VMX root operation, and its failure. -/
theorem witness_Cr0Admitted : Cr0Admitted (s41 0) 0x80000029#64 ∧ ¬ Cr0Admitted (s41 0) 0x21#64 := by
  unfold Cr0Admitted; decide

/-- MovToCr4: outside VMX operation; a supported value; a value without VMXE. -/
theorem witness_MovToCr4 : NotExiting (.movToCr 4 .rbx) (s41 0) ∧ NotExiting (.movToCr 4 .rbx) s42N
    ∧ (s41 0).cfg.vmx = true ∧ (s40 0).vmxMode = .outside
    ∧ (s41 0).vmxMode ≠ .outside ∧ cr4Ok ps1 0x2020#64 = true ∧ cr4Ok ps1 0x20#64 = false
    ∧ (0x20#64 : Word).getLsbD 13 = false := by decide

/-- MovToOtherCrs: CR8 at 15 and at 16; VMXE without VMX; number 1. -/
theorem witness_MovToOtherCrs : (∀ n, NotExiting (.movToCr n .rbx) (s40 0)) ∧ cpl (s40 0) = 0 ∧ mode64 (s40 0) = true
    ∧ truncTo (if mode64 (s40 0) then 64 else 32) (gpr .rbx (rbx (s40 0) 15)) = 15#64 ∧ (15#64 : Word).toNat < 16
    ∧ 16 ≤ (16#64 : Word).toNat ∧ ({ ps1 with vmx := false } : Config).vmx = false ∧ (0x2000#64 : Word).getLsbD 13 = true
    ∧ (1#4 ∉ [0#4, 2#4, 3#4, 4#4, 8#4]) ∧ mode64 { s40 0 with cr0 := 0 } = false := by decide

theorem witness_MovFromCr : (∀ n, NotExiting (.movFromCr .rbx n) (s40 0)) ∧ cpl (s40 0) = 0 ∧ mode64 (s40 0) = true
    ∧ (15#4 ∉ [0#4, 2#4, 3#4, 4#4, 8#4]) ∧ mode64 { s40 0 with cr0 := 0 } = false := by decide

/-- GetsecSmx: SENTER, SEXIT, another leaf, no SMX. -/
theorem witness_GetsecSmx : ({ ps1 with smx := true } : Config).smx = true
    ∧ NotExiting .getsec { s40 0 with cfg := { ps1 with smx := true } }
    ∧ (gpr .rax { s40 0 with gprs := { resetGprs with rax := 4 } }).setWidth 32 = 4#32
    ∧ (gpr .rax (s40 0)).setWidth 32 = 5#32
    ∧ (gpr .rax { s40 0 with gprs := resetGprs }).setWidth 32 ∉ [4#32, 5#32] ∧ (s40 0).cfg.smx = false := by decide

theorem witness_HltAndMwait : NotExiting .hlt s42N ∧ cpl s42N = 0 ∧ NotExiting .mwait s42N := by decide

/-- StiSetsFlag: CPL at IOPL, and above it. -/
theorem witness_StiSetsFlag : NotExiting .sti (s40 0)
    ∧ (∀ n, n < 64 → (0x202#64 : Word).getLsbD n = ((s40 0).rflags.getLsbD n || decide (n = 9)))
    ∧ (cpl (s40 0)).toNat ≤ ((s40 0).rflags.extractLsb' 12 2).toNat
    ∧ ((cpl3 (s40 0)).rflags.extractLsb' 12 2).toNat < (cpl (cpl3 (s40 0))).toNat := by decide

theorem witness_BasePrivilege : NotExiting .wrmsr (cpl3 (s40 0)) ∧ cpl (cpl3 (s40 0)) ≠ 0
    ∧ (readCr (cpl3 (s40 0)) 0).isSome = true := by decide

/-- InitSignal: the four states INIT meets. -/
theorem witness_InitSignal : (s41 0).raised = none
    ∧ ({ s41 0 with schedule := [some .init] } : State).schedule = some .init :: [] ∧ (s41 0).vmxMode = .root
    ∧ (s40 0).vmxMode = .outside ∧ s42N.vmxMode = .nonRoot ∧ s42N.currentVmcs = some 0x2000
    ∧ lookupExitInfo .init s42N.cfg.exitInfo = some (plainRecord 3) ∧ s42N.schedule = []
    ∧ ({ s42N with initPending := true } : State).initPending = true := by decide

theorem witness_A20mInterrupt : (s41 0).raised = none
    ∧ ({ s41 0 with schedule := [some (.a20m true)] } : State).schedule = some (.a20m true) :: []
    ∧ (s41 0).vmxMode ≠ .outside ∧ (s40 0).vmxMode = .outside := by decide

/-- ActivityEvents: the five events, the two kinds of activity state at a SIPI; in VMX non-root operation with an event
that exits and one that does not. -/
theorem witness_ActivityEvents : (s40 0).raised = none ∧ (s40 0).vmxMode ≠ .nonRoot
    ∧ ({ s40 0 with schedule := [some (.other 3)] } : State).schedule = some (.other 3) :: []
    ∧ s42N.raised = none ∧ s42N.vmxMode = .nonRoot ∧ exits (freshen s42N) (.plain .tripleFault) = false
    ∧ exits (freshen s42N) (.plain .sipi) = false ∧ s42N.currentVmcs = some 0x2000
    ∧ (∀ c ∈ [ExitCause.tripleFault, .sipi, .other 3],
      exits (freshen { s42N with cfg := { ps1 with exiting := [⟨c, []⟩] } }) (.plain c) = true)
    ∧ lookupExitInfo .tripleFault ps1.exitInfo = some (plainRecord 2)
    ∧ lookupExitInfo .sipi ps1.exitInfo = some (plainRecord 4)
    ∧ lookupExitInfo (.other 3) [(.other 3, plainRecord 1)] = some (plainRecord 1)
    ∧ ({ s40 0 with schedule := [some .tripleFault] } : State).schedule = some .tripleFault :: []
    ∧ ({ s40 0 with schedule := [some .sipi], activity := .waitForSipi } : State).schedule = some .sipi :: []
    ∧ ({ s40 0 with schedule := [some .sipi], activity := .waitForSipi } : State).activity = .waitForSipi
    ∧ (s40 0).activity ≠ .waitForSipi
    ∧ ({ s40 0 with schedule := [some .wake] } : State).schedule = some .wake :: [] := by decide

/-- ExceptionHandOver: to the base architecture, and to the VMM. -/
theorem witness_ExceptionHandOver : ({ s40 0 with raised := some .invalidOpcode } : State).raised = some .invalidOpcode
    ∧ (s40 0).vmxMode ≠ .nonRoot ∧ exits (freshen s42N) (.plain (.exception .invalidOpcode)) = false
    ∧ exits (freshen { s42N with cfg := { ps1 with exiting := [⟨.exception .invalidOpcode, []⟩] } })
      (.plain (.exception .invalidOpcode)) = true
    ∧ lookupExitInfo (.exception .invalidOpcode) s42N.cfg.exitInfo = some (exceptionRecord 0x80000306) := by decide

end Sys2Proof.Tests
end

section
/-! PROOFS. What keeps a predicate of states along a step: said once, for every invariant. -/

namespace Sys2Proof.Machine

/-! ## The parts of a step -/

/-- The state in which a SIPI starts a processor that waits for it (60_exceptions.md R244; log 45). -/
def sipiStart (s : State) : State :=
  { s with
    activity := .active
    rip := truncW s.cfg (Config.sipiRip s.draws)
    segs := { s.segs with
      cs := { s.segs.cs with
        selector := Config.sipiCsSelector s.draws
        base := (Config.sipiCsBase s.draws).setWidth 64 } } }

theorem exitOr_next {c : ExitCause} {s t : State} {o : Result} (h : exitOr c s o = .next t) :
    (s.vmxMode = .nonRoot ∧ vmExit (.plain c) s = .next t) ∨ o = .next t := by
  unfold exitOr at h
  split at h
  · next hc =>
    simp only [Bool.and_eq_true, decide_eq_true_eq] at hc
    exact .inl ⟨hc.1, h⟩
  · exact .inr h

theorem takeSipi_next {s t : State} (h : takeSipi s = .next t) :
    (s.vmxMode = .nonRoot ∧ vmExit (.plain .sipi) s = .next t) ∨ t = sipiStart s := by
  rcases exitOr_next h with h | h
  · exact .inl h
  · split at h
    · exact .inr (Host.Outcome.next.inj h).symm
    · cases h

theorem takeInit_next {s t : State} (h : takeInit s = .next t) :
    (s.vmxMode = .nonRoot ∧ vmExit (.plain .init) { s with initPending := false } = .next t)
      ∨ t = { s with initPending := true } := by
  unfold takeInit at h
  split at h
  · next hm => exact .inl ⟨hm, h⟩
  · exact .inr (Host.Outcome.next.inj h).symm
  · cases h

/-- A step hands over an exception, takes an event, or proceeds, from a state that differs in bookkeeping only. -/
theorem step_next {s t : State} (h : step s = .next t) :
    (∃ e, handOver e (freshen s) = .next t)
      ∨ (∃ e l, takeEvent e { freshen s with schedule := l } = .next t)
      ∨ ∃ l, proceed { freshen s with schedule := l } = .next t := by
  cases hr : s.raised with
  | some e => exact .inl ⟨e, step_raised hr ▸ h⟩
  | none =>
    match hs : s.schedule with
    | [] => exact .inr (.inr ⟨s.schedule, step_quiet hr hs ▸ h⟩)
    | none :: l => exact .inr (.inr ⟨l, step_none hr hs ▸ h⟩)
    | some e :: l => exact .inr (.inl ⟨e, l, step_event hr hs ▸ h⟩)

/-- `I` holds after each part of a step if it held before it. -/
structure KeptByParts (I : State → Prop) : Prop where
  bookkeeping : ∀ s l n b, I s → I { s with schedule := l, draws := n, initPending := b }
  raised : ∀ s x, I s → I { s with raised := x }
  next : ∀ n s, I s → I (withNext n s)
  exit : ∀ c s t, I s → s.vmxMode = .nonRoot → vmExit c s = .next t → I t
  instr : ∀ i s t, I s → exec i s = .next t → I t
  rdmsr : ∀ s t, I s → execRdmsr s = .next t → I t
  a20m : ∀ s b, I s → inVmx s = false → I { s with a20m := b }
  activity : ∀ s a b, I s → I { s with activity := a, mwaitIdle := b }
  sipi : ∀ s, I s → I (sipiStart s)
  /-- A reset clears IA32_FEATURE_CONTROL or keeps it (70_reset_and_hazards.md R271). -/
  reset : ∀ s fc, I s → fc = 0 ∨ fc = s.featureControl → I (resetTo fc s)

namespace KeptByParts

variable {I : State → Prop} (k : KeptByParts I)
include k

theorem keeps_exitOr {c : ExitCause} {s t : State} {o : Result} (h : I s) (ho : o = .next t → I t)
    (e : exitOr c s o = .next t) : I t := by
  rcases exitOr_next e with ⟨hm, e⟩ | e
  · exact k.exit _ _ _ h hm e
  · exact ho e

theorem keeps_takeInit {s t : State} (h : I s) (e : takeInit s = .next t) : I t := by
  rcases takeInit_next e with ⟨hm, e⟩ | rfl
  · exact k.exit _ _ _ (k.bookkeeping s s.schedule s.draws false h) hm e
  · exact k.bookkeeping s s.schedule s.draws true h

theorem keeps_takeEvent {e : Event} {s t : State} (h : I s) (he : takeEvent e s = .next t) : I t := by
  cases e with
  | init => exact k.keeps_takeInit h he
  | a20m enter =>
    obtain rfl := (Host.Outcome.next.inj he).symm
    split
    · exact h
    · next hv => exact k.a20m s enter h (by simpa using hv)
  | sipi =>
    rcases takeSipi_next he with ⟨hm, he⟩ | rfl
    · exact k.exit _ _ _ h hm he
    · exact k.sipi s h
  | wake => exact Host.Outcome.next.inj he ▸ k.activity s _ _ h
  | tripleFault =>
    exact k.keeps_exitOr h (fun e => Host.Outcome.next.inj e ▸ k.activity s .shutdown s.mwaitIdle h) he
  | powerUpReset => exact Host.Outcome.next.inj he ▸ k.reset s 0 h (.inl rfl)
  | warmReset =>
    refine Host.Outcome.next.inj he ▸ k.reset s (warmFeatureControl s) h ?_
    unfold warmFeatureControl
    split
    · exact .inr rfl
    · exact .inl rfl
  | other n => exact k.keeps_exitOr h (fun e => by cases e) he

theorem keeps_runInstr {s t : State} (h : I s) (e : runInstr s = .next t) : I t := by
  unfold runInstr at e
  split at e
  · obtain ⟨x, rfl⟩ := stopWith_next e
    exact k.raised s _ h
  · exact k.instr _ _ _ (k.next _ s h) e
  · exact k.rdmsr _ _ (k.next _ s h) e

theorem keeps_proceed {s t : State} (h : I s) (e : proceed s = .next t) : I t := by
  unfold proceed at e
  split at e
  · exact k.keeps_takeInit h e
  · split at e
    · exact k.keeps_runInstr h e
    · exact Host.Outcome.next.inj e ▸ h

/-- What every part of a step keeps, every step keeps. -/
theorem keeps_step {s t : State} (h : I s) (e : step s = .next t) : I t := by
  have fresh : ∀ l, I { freshen s with schedule := l } := fun l =>
    k.bookkeeping s l (s.draws + 1) s.initPending h
  rcases step_next e with ⟨x, e⟩ | ⟨x, l, e⟩ | ⟨l, e⟩
  · exact k.keeps_exitOr (fresh s.schedule) (fun e => by cases e) e
  · exact k.keeps_takeEvent (fresh l) e
  · exact k.keeps_proceed (fresh l) e

end KeptByParts

/-! ## What operands store -/

theorem writeMem_ok {s t : State} {m : MemOperand} {n : Nat} {v : Word} (h : writeMem s m n v = .ok t) :
    ∃ as bs, t = storeAt as bs s := by
  unfold writeMem at h
  split at h
  · obtain ⟨as, -, -, rfl⟩ := memWrite_ok h
    exact ⟨as, _, rfl⟩
  · cases h

theorem writeRm_ok {s t : State} {o : RmOperand} {n : Nat} {v : Word} (h : writeRm s o n v = .ok t) :
    (∃ r, t = setGpr r (truncTo (8 * n) v) s) ∨ ∃ as bs, t = storeAt as bs s := by
  cases o with
  | reg r => exact .inl ⟨r, (Except.ok.inj h).symm⟩
  | mem m => exact .inr (writeMem_ok h)

theorem vmSucceed_next {s t : State} (h : vmSucceed s = .next t) :
    t = complete { s with rflags := successFlags s } := (Host.Outcome.next.inj h).symm

theorem vmFail_next {s t : State} (h : vmFail s = .next t) : t = { complete (reportFail s) with failed := true } :=
  (Host.Outcome.next.inj h).symm

end Sys2Proof.Machine
end

section
/-! PROOFS. Every step keeps every register within its width (00_scope.md R7, 10_state.md R45). -/

namespace Sys2Proof.Machine

/-! ## Values within a width -/

theorem Fits.of_and_left {n : Nat} {v : Word} (h : Fits n v) (m : Word) : Fits n (v &&& m) := by
  unfold Fits
  rw [BitVec.toNat_and]
  exact Nat.lt_of_le_of_lt Nat.and_le_left h

theorem Fits.or {n : Nat} {v w : Word} (h : Fits n v) (k : Fits n w) : Fits n (v ||| w) := by
  unfold Fits
  rw [BitVec.toNat_or]
  exact Nat.or_lt_two_pow h k

theorem Fits.ite {n : Nat} {c : Prop} [Decidable c] {v w : Word} (h : Fits n v) (k : Fits n w) :
    Fits n (if c then v else w) := by
  split
  · exact h
  · exact k

theorem low32_fits (v : Word) : Fits 32 (low32 v) := by
  unfold Fits low32
  rw [BitVec.toNat_setWidth_of_le (by decide)]
  exact (v.setWidth 32).isLt

theorem setWidth_fits (v : BitVec 32) : Fits 32 (v.setWidth 64) := by
  unfold Fits
  rw [BitVec.toNat_setWidth_of_le (by decide)]
  exact v.isLt

theorem ushiftRight_fits (v : Word) : Fits 32 (v >>> 32) := by
  unfold Fits
  rw [BitVec.toNat_ushiftRight, Nat.shiftRight_eq_div_pow]
  omega

theorem natWidth_of_intel64 {cfg : Config} (h : cfg.intel64 = true) : natWidth cfg = 64 := by simp [natWidth, h]

theorem le_natWidth (cfg : Config) : 32 ≤ natWidth cfg := by
  unfold natWidth
  split <;> decide

/-- A value of 32 bits is within the natural width of every processor. -/
theorem Fits.natWidth {v : Word} (h : Fits 32 v) (cfg : Config) : Fits (natWidth cfg) v := h.mono (le_natWidth cfg)

theorem truncW_fits (cfg : Config) (v : Word) : Fits (natWidth cfg) (truncW cfg v) := truncTo_fits _ _

theorem archBase_fits (cfg : Config) (g : Seg) (v : Word) : Fits (natWidth cfg) (archBase cfg g v) := by
  cases g with
  | cs | ss | ds | es => exact (low32_fits v).natWidth cfg
  | fs | gs | ldtr | tr => exact truncW_fits cfg v

/-- 64-bit mode exists only where the natural width is 64 (10_state.md R47). -/
theorem intel64_of_mode64 {s : State} (h : mode64 s = true) : s.cfg.intel64 = true := by
  by_contra hn
  have hm : opMode s = .mode64 := of_decide_eq_true h
  simp only [opMode, Bool.and_eq_true, hn, false_and, if_false] at hm
  split_ifs at hm

theorem modeBits_le_natWidth (s : State) : modeBits s ≤ natWidth s.cfg := by
  unfold modeBits
  split
  · next h => rw [natWidth_of_intel64 (intel64_of_mode64 h)]
  · exact le_natWidth _

theorem operandBytes_le_natWidth (s : State) : 8 * operandBytes s ≤ natWidth s.cfg := by
  have := modeBits_le_natWidth s
  unfold operandBytes
  split <;> omega

theorem wrapMode_fits (s : State) (v : Word) : Fits (natWidth s.cfg) (wrapMode s v) := by
  unfold wrapMode
  split
  · next h => rw [natWidth_of_intel64 (intel64_of_mode64 h)]; exact v.isLt
  · exact (low32_fits v).natWidth _

theorem truncTo_modeBits_fits (s : State) (v : Word) : Fits (natWidth s.cfg) (truncTo (modeBits s) v) :=
  (truncTo_fits _ v).mono (modeBits_le_natWidth s)

/-- CPUID writes 32-bit values to four registers (log 35). -/
theorem cpuidGprs_get (s : State) (r : Reg) :
    (∃ v : BitVec 32, (cpuidGprs s).get r = v.setWidth 64) ∨ (cpuidGprs s).get r = gpr r s := by
  cases r with
  | rax | rbx | rcx | rdx => exact .inl ⟨_, rfl⟩
  | _ => exact .inr rfl

/-! ## What the invariant depends on -/

/-- The part of a state that `InWidths` speaks of. -/
def widthView (s : State) :=
  (s.cfg, s.cr0, s.cr2, s.cr3, s.cr4, s.cr8, s.dr7, s.gprs, s.rip, s.nextRip, s.rflags, s.segs, s.gdtr, s.idtr,
    s.sysenterEsp, s.sysenterEip)

namespace InWidths

theorem of_widthView_eq {s t : State} (h : InWidths s) (e : widthView t = widthView s) : InWidths t := by
  cases s
  cases t
  simp only [widthView, Prod.mk.injEq] at e
  obtain ⟨rfl, rfl, rfl, rfl, rfl, rfl, rfl, rfl, rfl, rfl, rfl, rfl, rfl, rfl, rfl, rfl⟩ := e
  obtain ⟨control, general, pointers, bases, narrow, tables, sysenter⟩ := h
  exact ⟨control, general, pointers, bases, narrow, tables, sysenter⟩

variable {s : State} (h : InWidths s)
include h

theorem after_setGpr {v : Word} (hv : Fits (natWidth s.cfg) v) (r : Reg) : InWidths (setGpr r v s) :=
  { h with
    general := fun q => by
      by_cases e : q = r
      · rw [e, gpr_setGpr_self]; exact hv
      · rw [gpr_setGpr_of_ne e]; exact h.general q }

theorem setControl {a b c d f : Word} (control : Fits (natWidth s.cfg) a ∧ Fits (natWidth s.cfg) b
    ∧ Fits (natWidth s.cfg) c ∧ Fits (natWidth s.cfg) d ∧ Fits (natWidth s.cfg) f ∧ Fits (natWidth s.cfg) s.dr7) :
    InWidths { s with cr0 := a, cr2 := b, cr3 := c, cr4 := d, cr8 := f } :=
  { h with control }

theorem setCr0 {v : Word} (hv : Fits (natWidth s.cfg) v) : InWidths { s with cr0 := v } :=
  h.setControl ⟨hv, h.control.2⟩

theorem setRflags {v : Word} (hv : Fits (natWidth s.cfg) v) : InWidths { s with rflags := v } := by
  obtain ⟨hrip, hnext, -⟩ := h.pointers
  exact { h with pointers := ⟨hrip, hnext, hv⟩ }

/-- The bases of FS, GS, LDTR and TR have the natural width, those of CS, SS, DS and ES 32 bits (10_state.md R45). -/
theorem setSegs {g : SegRegs}
    (narrow : Fits 32 g.cs.base ∧ Fits 32 g.ss.base ∧ Fits 32 g.ds.base ∧ Fits 32 g.es.base)
    (wide : Fits (natWidth s.cfg) g.fs.base ∧ Fits (natWidth s.cfg) g.gs.base ∧ Fits (natWidth s.cfg) g.ldtr.base
      ∧ Fits (natWidth s.cfg) g.tr.base) : InWidths { s with segs := g } := by
  obtain ⟨hcs, hss, hds, hes⟩ := narrow
  obtain ⟨hfs, hgs, hldtr, htr⟩ := wide
  refine { h with narrowBases := ⟨hcs, hss, hds, hes⟩, bases := fun x => ?_ }
  cases x with
  | cs => exact hcs.natWidth _
  | ss => exact hss.natWidth _
  | ds => exact hds.natWidth _
  | es => exact hes.natWidth _
  | fs => exact hfs
  | gs => exact hgs
  | ldtr => exact hldtr
  | tr => exact htr

theorem after_withNext (n : Nat) : InWidths (withNext n s) := by
  obtain ⟨hrip, -, hflags⟩ := h.pointers
  exact { h with pointers := ⟨hrip, wrapMode_fits s _, hflags⟩ }

theorem after_complete : InWidths (complete s) :=
  { h with pointers := ⟨h.pointers.2.1, h.pointers.2⟩ }

theorem after_raised (e : Exception) : InWidths { s with raised := some e } := h.of_widthView_eq rfl

/-! ## The shared operations -/

theorem rflags_fits : Fits (natWidth s.cfg) s.rflags := h.pointers.2.2

theorem flagsSucceed_fits : Fits (natWidth s.cfg) (flagsSucceed s.rflags) := h.rflags_fits.of_and_left _

theorem after_vmSucceed {t : State} (e : vmSucceed s = .next t) : InWidths t := by
  rw [vmSucceed_next e]
  exact (h.setRflags (Fits.ite h.flagsSucceed_fits h.rflags_fits)).after_complete

/-- A VMX instruction that succeeds after a change of what `InWidths` does not speak of. -/
theorem after_vmSucceed_of_widthView_eq {u t : State} (e : vmSucceed u = .next t) (v : widthView u = widthView s) :
    InWidths t := (h.of_widthView_eq v).after_vmSucceed e

theorem after_reportFail : InWidths (reportFail s) := by
  have valid : Fits (natWidth s.cfg) (flagsFailValid s.rflags) :=
    h.flagsSucceed_fits.or (Fits.natWidth (by decide) _)
  have invalid : Fits (natWidth s.cfg) (flagsFailInvalid s.rflags) :=
    h.flagsSucceed_fits.or (Fits.natWidth (by decide) _)
  unfold reportFail
  split
  · split
    · exact (h.setRflags valid).of_widthView_eq rfl
    · exact h.setRflags invalid
  · exact h

theorem after_vmFail {t : State} (e : vmFail s = .next t) : InWidths t := by
  rw [vmFail_next e]
  exact h.after_reportFail.after_complete.of_widthView_eq rfl

theorem loadSeg_base_fits (sel : GuestReg → Bool) (val : GuestReg → Word) (g : Seg) :
    Fits (natWidth s.cfg) (loadSeg s.cfg sel val g (s.segs.get g)).base :=
  Fits.ite (archBase_fits _ _ _) (h.bases g)

theorem after_loadRegs (sel : GuestReg → Bool) (val : GuestReg → Word) : InWidths (loadRegs sel val s) := by
  obtain ⟨hcr0, hcr2, hcr3, hcr4, hcr8, hdr7⟩ := h.control
  obtain ⟨hrip, hnext, hflags⟩ := h.pointers
  obtain ⟨hcs, hss, hds, hes⟩ := h.narrowBases
  obtain ⟨hgdtr, hidtr⟩ := h.tables
  obtain ⟨hesp, heip⟩ := h.sysenter
  have cut : ∀ g v, Fits (natWidth s.cfg) v → Fits (natWidth s.cfg) (if sel g then truncW s.cfg (val g) else v) :=
    fun g v hv => Fits.ite (truncW_fits _ _) hv
  have narrow : ∀ g v, Fits 32 v → Fits 32 (if sel g then low32 (val g) else v) :=
    fun g v hv => Fits.ite (low32_fits _) hv
  exact
    { control := ⟨cut _ _ hcr0, hcr2, cut _ _ hcr3, cut _ _ hcr4, hcr8, cut _ _ hdr7⟩
      general := fun r => by
        show Fits _ ((if sel .rsp then s.gprs.set .rsp (truncW s.cfg (val .rsp)) else s.gprs).get r)
        split
        · exact (h.after_setGpr (truncW_fits _ _) .rsp).general r
        · exact h.general r
      pointers := ⟨cut _ _ hrip, hnext, cut _ _ hflags⟩
      bases := fun g => by
        have loaded := h.loadSeg_base_fits sel val g
        cases g <;> exact loaded
      narrowBases := ⟨narrow _ _ hcs, narrow _ _ hss, narrow _ _ hds, narrow _ _ hes⟩
      tables := ⟨cut _ _ hgdtr, cut _ _ hidtr⟩
      sysenter := ⟨cut _ _ hesp, cut _ _ heip⟩ }

theorem after_loadHost (p : Word) (v : Vmcs) : InWidths (loadHost p v s) := by
  have l := h.after_loadRegs (loadsOnExit s.cfg p v) (fun g => fieldVal s.cfg p v (.host g))
  obtain ⟨hcs, hss, hds, hes⟩ := l.narrowBases
  exact (l.setSegs (g := (loadHost p v s).segs) ⟨Fits.ite hcs (low32_fits _), hss, hds, hes⟩
    ⟨l.bases .fs, l.bases .gs, l.bases .ldtr, l.bases .tr⟩).of_widthView_eq rfl

theorem after_putVmcs (p : Word) (v : Vmcs) : InWidths (putVmcs p v s) := h.of_widthView_eq rfl

theorem after_vmExit {c : Trigger} {t : State} (e : vmExit c s = .next t) : InWidths t := by
  obtain ⟨p, r, -, -, rfl⟩ := vmExit_next e
  exact (h.after_putVmcs _ _).after_loadHost _ _

theorem after_enterGuest (p : Word) (l : Bool) : InWidths (enterGuest p l s) := by
  have loaded := h.after_loadRegs (loadsOnEntry s.cfg p (vmcsAt s p)) fun g => fieldVal s.cfg p (vmcsAt s p) (.guest g)
  exact loaded.of_widthView_eq rfl

theorem after_vmEntry {p : Word} {l : Bool} {t : State} (e : vmEntry p l s = .next t) : InWidths t := by
  have used : InWidths { s with entryVerdicts := s.entryVerdicts.tail } := h.of_widthView_eq rfl
  rcases vmEntry_next e with ⟨-, e⟩ | ⟨-, e⟩ | ⟨-, rfl⟩
  · exact used.after_vmFail e
  · obtain ⟨r, rfl⟩ := failEntryLate_next e
    exact (used.after_putVmcs _ _).after_loadHost _ _
  · exact used.after_enterGuest p l

theorem after_aside {c : Trigger} {t : State} (a : Aside c s t) : InWidths t := by
  rcases a with ⟨e, rfl⟩ | ⟨-, e⟩
  · exact h.after_raised e
  · exact h.after_vmExit e

/-! ## The instructions -/

theorem after_writeMsr {r : Msr} {v : Word} {t : State} (e : writeMsr r v s = .next t) : InWidths t := by
  have esp : InWidths { s with sysenterEsp := truncW s.cfg v } :=
    { h with sysenter := ⟨truncW_fits _ _, h.sysenter.2⟩ }
  have eip : InWidths { s with sysenterEip := truncW s.cfg v } :=
    { h with sysenter := ⟨h.sysenter.1, truncW_fits _ _⟩ }
  have elsewhere : ∀ u, widthView u = widthView s → InWidths (complete u) :=
    fun _ v => (h.of_widthView_eq v).after_complete
  rcases writeMsr_next e with ⟨x, rfl⟩ | ⟨-, -, -, rfl⟩ | rfl | rfl | rfl | rfl | rfl | rfl | rfl | ⟨a, rfl⟩
  · exact h.after_raised x
  · exact elsewhere _ rfl
  · exact elsewhere _ rfl
  · exact elsewhere _ rfl
  · exact esp.after_complete
  · exact eip.after_complete
  · exact elsewhere _ rfl
  · exact elsewhere _ rfl
  · exact elsewhere _ rfl
  · exact elsewhere _ rfl

theorem after_movToCr {n : BitVec 4} {r : Reg} {t : State} (e : execMovToCr n r s = .next t) : InWidths t := by
  have src : Fits (natWidth s.cfg) (crSource r s) := truncTo_modeBits_fits s _
  obtain ⟨hcr0, hcr2, hcr3, hcr4, hcr8, hdr7⟩ := h.control
  rcases execMovToCr_next e with e | ⟨-, rfl⟩ | ⟨-, rfl⟩ | rfl | rfl | rfl
  · exact h.after_aside e
  · exact (h.setCr0 src).after_complete
  · exact (h.setControl ⟨hcr0, hcr2, hcr3, src, hcr8, hdr7⟩).after_complete
  · exact (h.setControl ⟨hcr0, src, hcr3, hcr4, hcr8, hdr7⟩).after_complete
  · exact (h.setControl ⟨hcr0, hcr2, src, hcr4, hcr8, hdr7⟩).after_complete
  · exact (h.setControl ⟨hcr0, hcr2, hcr3, hcr4, src, hdr7⟩).after_complete

theorem after_vmread {o : RmOperand} {r : Reg} {t : State} (e : execVmread o r s = .next t) : InWidths t := by
  rcases execVmread_next e with e | ⟨-, e | ⟨p, f, u, -, -, hu, e⟩⟩
  · exact h.after_aside e
  · exact h.after_vmFail e
  · refine InWidths.after_vmSucceed ?_ e
    rcases writeRm_ok hu with ⟨q, rfl⟩ | ⟨as, bs, rfl⟩
    · exact h.after_setGpr ((truncTo_fits _ _).mono (operandBytes_le_natWidth s)) q
    · exact h.of_widthView_eq rfl

theorem after_cpuid {t : State} (e : execCpuid s = .next t) : InWidths t := by
  rcases execCpuid_next e with e | rfl
  · exact h.after_aside e
  · refine InWidths.after_complete { h with general := fun r => ?_ }
    show Fits (natWidth s.cfg) ((cpuidGprs s).get r)
    rcases cpuidGprs_get s r with ⟨v, e⟩ | e
    · rw [e]; exact (setWidth_fits v).natWidth _
    · rw [e]; exact h.general r

theorem after_rdmsr {t : State} (e : execRdmsr s = .next t) : InWidths t := by
  rcases execRdmsr_next e with e | ⟨-, r, -, rfl⟩
  · exact h.after_aside e
  · have low := h.after_setGpr ((low32_fits (readMsr s r)).natWidth _) .rax
    have high := low.after_setGpr ((ushiftRight_fits (readMsr s r)).natWidth _) .rdx
    exact high.after_complete

theorem after_exec {i : Instr} {t : State} (e : exec i s = .next t) : InWidths t := by
  cases i with
  | vmcall => exact h.after_aside (execVmcall_next e)
  | vmlaunch =>
    rcases execVmlaunch_next e with e | ⟨-, e | ⟨p, -, -, -, e⟩⟩
    · exact h.after_aside e
    · exact h.after_vmFail e
    · exact h.after_vmEntry e
  | vmresume =>
    rcases execVmresume_next e with e | ⟨-, e | ⟨p, -, -, -, e⟩⟩
    · exact h.after_aside e
    · exact h.after_vmFail e
    · exact h.after_vmEntry e
  | vmxoff =>
    rcases execVmxoff_next e with e | ⟨-, e⟩
    · exact h.after_aside e
    · exact h.after_vmSucceed_of_widthView_eq e rfl
  | vmptrld m =>
    rcases execVmptrld_next e with e | ⟨-, e | ⟨p, -, -, -, e⟩⟩
    · exact h.after_aside e
    · exact h.after_vmFail e
    · exact h.after_vmSucceed_of_widthView_eq e rfl
  | vmclear m =>
    rcases execVmclear_next e with e | ⟨-, e | ⟨p, -, -, -, -, e⟩⟩
    · exact h.after_aside e
    · exact h.after_vmFail e
    · exact h.after_vmSucceed_of_widthView_eq e rfl
  | vmxon m =>
    rcases execVmxon_next e with e | e | ⟨-, -, q, -, -, -, -, e⟩
    · exact h.after_aside e
    · exact h.after_vmFail e
    · exact h.after_vmSucceed_of_widthView_eq e rfl
  | vmptrst m =>
    rcases execVmptrst_next e with e | ⟨-, u, hu, e⟩
    · exact h.after_aside e
    · obtain ⟨as, bs, rfl⟩ := writeMem_ok hu
      exact h.after_vmSucceed_of_widthView_eq e rfl
  | vmread o r => exact h.after_vmread e
  | vmwrite r o =>
    rcases execVmwrite_next e with e | ⟨-, e | ⟨p, f, x, -, -, -, e⟩⟩
    · exact h.after_aside e
    · exact h.after_vmFail e
    · exact (h.after_putVmcs _ _).after_vmSucceed e
  | cpuid => exact h.after_cpuid e
  | wrmsr =>
    rcases execWrmsr_next e with e | ⟨-, r, -, e⟩
    · exact h.after_aside e
    · exact h.after_writeMsr e
  | movToCr n r => exact h.after_movToCr e
  | movFromCr r n =>
    rcases execMovFromCr_next e with e | ⟨v, -, rfl⟩
    · exact h.after_aside e
    · exact (h.after_setGpr (truncTo_modeBits_fits s v) r).after_complete
  | clts =>
    rcases execClts_next e with e | ⟨-, rfl⟩
    · exact h.after_aside e
    · exact (h.setCr0 (h.control.1.of_and_left _)).after_complete
  | lmsw o =>
    rcases execLmsw_next e with e | ⟨x, -, -, rfl⟩
    · exact h.after_aside e
    · have low : Fits 32 (x &&& 0xF#64) := by
        rw [BitVec.and_comm]
        exact Fits.of_and_left (by decide) x
      exact (h.setCr0 ((h.control.1.of_and_left _).or (low.natWidth _))).after_complete
  | getsec =>
    rcases execGetsec_next e with e | ⟨-, b, rfl⟩
    · exact h.after_aside e
    · exact h.after_complete.of_widthView_eq rfl
  | hlt =>
    rcases execHlt_next e with e | rfl
    · exact h.after_aside e
    · exact h.after_complete.of_widthView_eq rfl
  | mwait =>
    rcases execMwait_next e with e | rfl
    · exact h.after_aside e
    · exact h.after_complete.of_widthView_eq rfl
  | sti =>
    rcases execSti_next e with e | rfl
    · exact h.after_aside e
    · have flags : Fits (natWidth s.cfg) (setBit 9 s.rflags) := h.rflags_fits.or (Fits.natWidth (by decide) _)
      exact (h.setRflags flags).after_complete.of_widthView_eq rfl

/-! ## Events -/

theorem after_sipiStart : InWidths (sipiStart s) := by
  have rip : InWidths { s with rip := truncW s.cfg (Config.sipiRip s.draws) } :=
    { h with pointers := ⟨truncW_fits _ _, h.pointers.2⟩ }
  exact (rip.setSegs (g := (sipiStart s).segs) ⟨setWidth_fits _, h.narrowBases.2⟩
    ⟨h.bases .fs, h.bases .gs, h.bases .ldtr, h.bases .tr⟩).of_widthView_eq rfl

end InWidths

/-! The values that a reset gives the registers have 32 bits (log 2). -/

theorem gpr_reset_fits (r : Reg) : Fits 32 (gpr r State.reset) := by cases r <;> decide

theorem base_reset_fits (g : Seg) : Fits 32 (State.reset.segs.get g).base := by cases g <;> decide

theorem inWidths_resetTo (fc : Word) (s : State) : InWidths (resetTo fc s) := by
  have small : ∀ v, Fits 32 v → Fits (natWidth s.cfg) v := fun _ k => k.natWidth _
  have zero : Fits 32 0 := by decide
  exact
    { control := ⟨small resetCr0 (by decide), small 0 zero, small 0 zero, small resetCr4 (by decide), small 0 zero,
        small resetDr7 (by decide)⟩
      general := fun r => small _ (gpr_reset_fits r)
      pointers := ⟨small resetRip (by decide), small 0 zero, small resetRflags (by decide)⟩
      bases := fun g => small _ (base_reset_fits g)
      narrowBases := ⟨base_reset_fits .cs, base_reset_fits .ss, base_reset_fits .ds, base_reset_fits .es⟩
      tables := ⟨small 0 zero, small 0 zero⟩
      sysenter := ⟨small 0 zero, small 0 zero⟩ }

theorem inWidths_keptByParts : KeptByParts InWidths where
  bookkeeping _ _ _ _ h := h.of_widthView_eq rfl
  raised _ _ h := h.of_widthView_eq rfl
  next n _ h := h.after_withNext n
  exit _ _ _ h _ e := h.after_vmExit e
  instr _ _ _ h e := h.after_exec e
  rdmsr _ _ h e := h.after_rdmsr e
  a20m _ _ h _ := h.of_widthView_eq rfl
  activity _ _ _ h := h.of_widthView_eq rfl
  sipi _ h := h.after_sipiStart
  reset s fc _ _ := inWidths_resetTo fc s

/-- Settles O13: each part of a step writes only values cut to the width of the register. -/
theorem stepKeepsWidths : Obligations.StepKeepsWidths := by
  unfold Obligations.StepKeepsWidths
  intro s t h e
  exact inWidths_keptByParts.keeps_step h e

end Sys2Proof.Machine
end

section
/-! PROOFS. Every step keeps the invariants of VMX operation (10_state.md R27, R28, R31 to R35, R60; 42_vm_entry_exit.md
R193, R198). -/

namespace Sys2Proof.Machine

/-! ## CR0 and CR4 after a VM exit and after a VM entry -/

theorem loadsOnExit_control (cfg : Config) (p : Word) (v : Vmcs) :
    loadsOnExit cfg p v .cr0 = true ∧ loadsOnExit cfg p v .cr4 = true := by
  simp [loadsOnExit, hasField, isHostField, alwaysHost]

theorem loadsOnEntry_control (cfg : Config) (p : Word) (v : Vmcs) :
    loadsOnEntry cfg p v .cr0 = true ∧ loadsOnEntry cfg p v .cr4 = true := by
  simp [loadsOnEntry, hasGuestField, alwaysLoaded]

theorem loadRegs_control (sel : GuestReg → Bool) (val : GuestReg → Word) (s : State)
    (loads : sel .cr0 = true ∧ sel .cr4 = true)
    (fits : Fits (natWidth s.cfg) (val .cr0) ∧ Fits (natWidth s.cfg) (val .cr4)) :
    (loadRegs sel val s).cr0 = val .cr0 ∧ (loadRegs sel val s).cr4 = val .cr4 := by
  simp [loadRegs, loads, truncW, truncTo_of_fits fits.1, truncTo_of_fits fits.2]

theorem loadHost_control (p : Word) (v : Vmcs) (s : State) :
    (loadHost p v s).cr0 = fieldVal s.cfg p v (.host .cr0)
      ∧ (loadHost p v s).cr4 = fieldVal s.cfg p v (.host .cr4) :=
  loadRegs_control _ (fun g => fieldVal s.cfg p v (.host g)) s (loadsOnExit_control s.cfg p v)
    ⟨fieldVal_fits s.cfg p v (.host .cr0), fieldVal_fits s.cfg p v (.host .cr4)⟩

theorem enterGuest_control (p : Word) (l : Bool) (s : State) :
    (enterGuest p l s).cr0 = fieldVal s.cfg p (vmcsAt s p) (.guest .cr0)
      ∧ (enterGuest p l s).cr4 = fieldVal s.cfg p (vmcsAt s p) (.guest .cr4) :=
  loadRegs_control _ (fun g => fieldVal s.cfg p (vmcsAt s p) (.guest g)) s (loadsOnEntry_control s.cfg p (vmcsAt s p))
    ⟨fieldVal_fits s.cfg p (vmcsAt s p) (.guest .cr0), fieldVal_fits s.cfg p (vmcsAt s p) (.guest .cr4)⟩

/-! ## The VMCS after a VM exit and after a VM entry -/

/-- The check of the host values reads nothing of a VMCS but its host-state area. -/
theorem hostStateOk_congr {s : State} {p : Word} {v w : Vmcs}
    (h : ∀ g, fieldVal s.cfg p w (.host g) = fieldVal s.cfg p v (.host g)) : hostStateOk s p w = hostStateOk s p v := by
  simp only [hostStateOk, h]

theorem hostStateOk_exitVmcs (s : State) (p : Word) (c : Trigger) (r : ExitRecord) :
    hostStateOk s p (exitVmcs s p c r) = hostStateOk s p (vmcsAt s p) :=
  hostStateOk_congr (exitVmcs_host s p c r)

theorem hostStateOk_recordExit (s : State) (p : Word) (x : ExitValues) (v : Vmcs) :
    hostStateOk s p (recordExit s.cfg x v) = hostStateOk s p v :=
  hostStateOk_congr fun _ => fieldVal_recordExit_of_ne _ _ _ _ (by simp) (by simp) (by simp)

/-- A VM entry leaves its VMCS launched: VMLAUNCH makes it so, VMRESUME finds it so (42_vm_entry_exit.md R190). -/
theorem vmcsAt_enterGuest {p : Word} {l : Bool} {s : State} (h : l = false → (vmcsAt s p).launch = .launched) :
    vmcsAt (enterGuest p l s) p = { vmcsAt s p with launch := .launched } := by
  cases l with
  | true => exact vmcsAt_putVmcs_self p _ s
  | false => rw [← h rfl]; rfl

/-! ## What VMX operation admits -/

theorem inVmx_of_root {s : State} (h : s.vmxMode = .root) : inVmx s = true := by simp [inVmx, h]

theorem cr0Allowed_root {s : State} (h : s.vmxMode = .root) (x : Word) : cr0Allowed s x = cr0Ok s.cfg x := by
  simp [cr0Allowed, h]

theorem cr4Ok_of_allowed {s : State} {x : Word} (h : cr4Allowed s x = true) (m : inVmx s = true) :
    cr4Ok s.cfg x = true := by
  unfold cr4Allowed at h
  split at h
  · next e => simp [inVmx, e] at m
  · exact h
  · exact h

theorem featureControlLegal_zero (cfg : Config) : featureControlLegal cfg 0 = true := by
  simp [featureControlLegal, enablesSupported]

/-! ## What the invariant depends on -/

/-- The part of a state that `LegalState` speaks of. -/
def legalView (s : State) :=
  (s.cfg, s.mem, s.vmcss, s.otherMsrs, s.active, s.currentVmcs, s.vmxMode, s.cr0, s.cr4, s.a20m, s.smxOp,
    s.featureControl)

namespace LegalState

theorem of_legalView_eq {s t : State} (h : LegalState s) (e : legalView t = legalView s) : LegalState t := by
  cases s
  cases t
  simp only [legalView, Prod.mk.injEq] at e
  obtain ⟨rfl, rfl, rfl, rfl, rfl, rfl, rfl, rfl, rfl, rfl, rfl, rfl⟩ := e
  obtain ⟨config, memory, vmcss, otherMsrs, active, current, fixedBits, a20m, guest, smx, featureControl⟩ := h
  exact ⟨config, memory, vmcss, otherMsrs, active, current, fixedBits, a20m, guest, smx, featureControl⟩

variable {s : State} (h : LegalState s)
include h

/-! ## Changes of one part -/

theorem setCr0 {v : Word} (a : cr0Allowed s v = true) : LegalState { s with cr0 := v } :=
  { h with fixedBits := fun m => ⟨a, (h.fixedBits m).2⟩ }

theorem setCr4 {v : Word} (a : cr4Allowed s v = true) : LegalState { s with cr4 := v } :=
  { h with fixedBits := fun m => ⟨(h.fixedBits m).1, cr4Ok_of_allowed a m⟩ }

theorem setFeatureControl {v : Word} (a : featureControlLegal s.cfg v = true) :
    LegalState { s with featureControl := v } :=
  { h with featureControl := a }

theorem setSmxOp (a : s.cfg.smx = true) (b : Bool) : LegalState { s with smxOp := b } :=
  { h with smx := fun n => by rw [a] at n; cases n }

theorem setA20m (a : inVmx s = false) (b : Bool) : LegalState { s with a20m := b } :=
  { h with a20m := fun m => by rw [show inVmx s = true from m] at a; cases a }

theorem setOtherMsr (k : Nat) (v : Word) : LegalState { s with otherMsrs := Table.insert k v s.otherMsrs } :=
  { h with otherMsrs := Table.sorted_insert k v h.otherMsrs }

/-- In VMX root operation no invariant but the canonical forms and R60 speaks of memory and the VMCSs. -/
theorem setTables (root : s.vmxMode = .root) {m : Memory} {v : List (Nat × Vmcs)} {a : List Word} {c : Option Word}
    (memory : Memory.wf m = true) (vmcss : Table.sorted v = true) (active : rising a = true)
    (current : ∀ p, c = some p → p ∈ a) :
    LegalState { s with mem := m, vmcss := v, active := a, currentVmcs := c } :=
  { h with
    memory, vmcss, active, current
    fixedBits := fun i => by
      obtain ⟨hcr0, hcr4⟩ := h.fixedBits i
      rw [cr0Allowed_root root] at hcr0
      exact ⟨(cr0Allowed_root (by exact root) s.cr0).trans hcr0, hcr4⟩
    guest := fun n => by rw [show s.vmxMode = .nonRoot from n] at root; cases root }

theorem after_putVmcs (root : s.vmxMode = .root) (p : Word) (v : Vmcs) : LegalState (putVmcs p v s) :=
  h.setTables root h.memory (Table.sorted_insert _ _ h.vmcss) h.active h.current

theorem after_storeAt (root : s.vmxMode = .root) (as : List Nat) (bs : List Byte) : LegalState (storeAt as bs s) :=
  h.setTables root (Memory.wf_storeBytes _ _ h.memory) ((Table.sorted_mapVal _ _).trans h.vmcss) h.active h.current

theorem after_vmptrld (root : s.vmxMode = .root) (p : Word) :
    LegalState { s with active := activate p s.active, currentVmcs := some p } :=
  h.setTables root h.memory h.vmcss (rising_activate p h.active) fun q e => by
    cases e
    exact (mem_activate p p s.active).2 (.inl rfl)

theorem after_clearVmcs (root : s.vmxMode = .root) (p : Word) : LegalState (clearVmcs p s) := by
  refine h.setTables root (Memory.wf_storeBytes _ _ h.memory) (Table.sorted_insert _ _ h.vmcss)
    (rising_deactivate p h.active) fun q e => ?_
  split at e
  · cases e
  · next hp => exact (mem_deactivate p q s.active).2 ⟨h.current q e, fun k => hp (k ▸ e)⟩

/-! ## Changes of the VMX mode -/

theorem after_vmxon (supported : VmxonSupported s) (q : Word) :
    LegalState { s with vmxMode := .root, vmxonPtr := q, currentVmcs := none } := by
  obtain ⟨hcr0, hcr4, ha20m⟩ := supported
  exact
    { h with
      current := fun _ e => by cases e
      fixedBits := fun _ => ⟨hcr0, hcr4⟩
      a20m := fun _ => ha20m
      guest := fun n => by cases n }

theorem after_vmxoff :
    LegalState { s with vmxMode := .outside, vmcss := forgetActive (s.draws + 1) s.active s.vmcss } :=
  { h with
    vmcss := sorted_forgetActive _ _ h.vmcss
    fixedBits := fun n => by cases n
    a20m := fun n => by cases n
    guest := fun n => by cases n }

/-- Loading a host-state area with supported values leads to a legal state of VMX root operation. -/
theorem after_loadHost (m : inVmx s = true) {p : Word} {v : Vmcs} (ok : hostStateOk s p v = true) :
    LegalState (loadHost p v (putVmcs p v s)) := by
  simp only [hostStateOk, Bool.and_eq_true] at ok
  exact
    { h with
      vmcss := Table.sorted_insert _ _ h.vmcss
      fixedBits := fun _ => by
        obtain ⟨hcr0, hcr4⟩ := loadHost_control p v (putVmcs p v s)
        rw [cr0Allowed_root rfl, hcr0, hcr4]
        exact ok
      a20m := fun _ => h.a20m m
      guest := fun n => by cases n }

theorem after_vmExit (guest : s.vmxMode = .nonRoot) {c : Trigger} {t : State} (e : vmExit c s = .next t) :
    LegalState t := by
  obtain ⟨p, r, hp, -, rfl⟩ := vmExit_next e
  obtain ⟨q, hq, -, -, ok⟩ := h.guest guest
  obtain rfl : p = q := Option.some.inj (hp.symm.trans hq)
  exact h.after_loadHost (by simp [inVmx, guest]) ((hostStateOk_exitVmcs s p c r).trans ok)

/-- A VM entry that passes its checks leads to a legal state of VMX non-root operation. -/
theorem after_enterGuest (root : s.vmxMode = .root) {p : Word} {l : Bool} (current : s.currentVmcs = some p)
    (ordinary : headerShadow s.mem p = false) (launched : l = false → (vmcsAt s p).launch = .launched)
    (host : hostStateOk s p (vmcsAt s p) = true) (guest : guestStateOk s p (vmcsAt s p) = true) :
    LegalState (enterGuest p l s) := by
  have hv := vmcsAt_enterGuest launched
  simp only [guestStateOk, Bool.and_eq_true] at guest
  exact
    { h with
      vmcss := by
        show Table.sorted (if l then _ else s.vmcss) = true
        split
        · exact Table.sorted_insert _ _ h.vmcss
        · exact h.vmcss
      active := by
        show rising (if _ then _ else s.active) = true
        split
        · exact rising_activate _ h.active
        · exact h.active
      current := fun q e => by
        show q ∈ (if _ then _ else s.active)
        split
        · exact (mem_activate _ _ _).2 (.inr (h.current q e))
        · exact h.current q e
      fixedBits := fun _ => by
        obtain ⟨hcr0, hcr4⟩ := enterGuest_control p l s
        simp only [cr0Allowed, enterGuest_vmxMode, enterGuest_currentVmcs, current, hv, hcr0, hcr4]
        exact guest.1
      a20m := fun _ => h.a20m (inVmx_of_root root)
      guest := fun _ => ⟨p, current, ordinary, by rw [hv], by rw [hv]; exact host⟩ }

/-! ## The shared operations -/

theorem after_raised (e : Exception) : LegalState { s with raised := some e } := h.of_legalView_eq rfl

theorem after_complete : LegalState (complete s) := h.of_legalView_eq rfl

theorem after_vmSucceed {t : State} (e : vmSucceed s = .next t) : LegalState t := by
  rw [vmSucceed_next e]
  exact h.of_legalView_eq rfl

theorem after_vmFail {t : State} (e : vmFail s = .next t) : LegalState t := by
  rw [vmFail_next e]
  have report : LegalState (reportFail s) := by
    rcases reportFail_cases s with e | ⟨f, e⟩ | ⟨root, p, x, -, e⟩
    · rw [e]; exact h
    · rw [e]; exact h.of_legalView_eq rfl
    · rw [e]; exact (h.after_putVmcs root p _).of_legalView_eq rfl
  exact report.of_legalView_eq rfl

theorem after_vmEntry (root : s.vmxMode = .root) {p : Word} {l : Bool} (current : s.currentVmcs = some p)
    (ordinary : headerShadow s.mem p = false) (launched : l = false → (vmcsAt s p).launch = .launched) {t : State}
    (e : vmEntry p l s = .next t) : LegalState t := by
  have used : LegalState { s with entryVerdicts := s.entryVerdicts.tail } := h.of_legalView_eq rfl
  rcases vmEntry_next e with ⟨-, e⟩ | ⟨late, e⟩ | ⟨pass, rfl⟩
  · exact used.after_vmFail e
  · obtain ⟨r, rfl⟩ := failEntryLate_next e
    have host : hostStateOk s p (vmcsAt s p) = true := entryCheck_host (by rw [late]; decide)
    exact used.after_loadHost (inVmx_of_root root) ((hostStateOk_recordExit _ p _ _).trans host)
  · have host : hostStateOk s p (vmcsAt s p) = true := entryCheck_host (by rw [pass]; decide)
    have guest : guestStateOk s p (vmcsAt s p) = true := entryCheck_guest pass
    exact used.after_enterGuest root current ordinary launched host guest

theorem after_aside {c : Trigger} {t : State} (a : Aside c s t) : LegalState t := by
  rcases a with ⟨e, rfl⟩ | ⟨guest, e⟩
  · exact h.after_raised e
  · exact h.after_vmExit guest e

/-! ## The instructions -/

theorem after_writeMsr {r : Msr} {v : Word} {t : State} (e : writeMsr r v s = .next t) : LegalState t := by
  have elsewhere : ∀ u, legalView u = legalView s → LegalState (complete u) :=
    fun _ v => (h.of_legalView_eq v).after_complete
  rcases writeMsr_next e with ⟨x, rfl⟩ | ⟨-, hen, hres, rfl⟩ | rfl | rfl | rfl | rfl | rfl | rfl | rfl | ⟨a, rfl⟩
  · exact h.after_raised x
  · exact (h.setFeatureControl (by simp [featureControlLegal, hen, hres])).after_complete
  · exact elsewhere _ rfl
  · exact elsewhere _ rfl
  · exact elsewhere _ rfl
  · exact elsewhere _ rfl
  · exact elsewhere _ rfl
  · exact elsewhere _ rfl
  · exact elsewhere _ rfl
  · exact (h.setOtherMsr _ v).after_complete

theorem after_movToCr {n : BitVec 4} {r : Reg} {t : State} (e : execMovToCr n r s = .next t) : LegalState t := by
  rcases execMovToCr_next e with e | ⟨a, rfl⟩ | ⟨a, rfl⟩ | rfl | rfl | rfl
  · exact h.after_aside e
  · exact (h.setCr0 a).after_complete
  · exact (h.setCr4 a).after_complete
  all_goals exact h.of_legalView_eq rfl

theorem after_vmread {o : RmOperand} {r : Reg} {t : State} (e : execVmread o r s = .next t) : LegalState t := by
  rcases execVmread_next e with e | ⟨⟨root, -, -⟩, e | ⟨p, f, u, -, -, hu, e⟩⟩
  · exact h.after_aside e
  · exact h.after_vmFail e
  · rcases writeRm_ok hu with ⟨q, rfl⟩ | ⟨as, bs, rfl⟩
    · have wrote : LegalState (setGpr q (truncTo (8 * operandBytes s) (readAccess s p f)) s) := h.of_legalView_eq rfl
      exact wrote.after_vmSucceed e
    · exact (h.after_storeAt root as bs).after_vmSucceed e

theorem after_exec {i : Instr} {t : State} (e : exec i s = .next t) : LegalState t := by
  cases i with
  | vmcall => exact h.after_aside (execVmcall_next e)
  | vmlaunch =>
    rcases execVmlaunch_next e with e | ⟨⟨root, -, -⟩, e | ⟨p, current, ordinary, -, e⟩⟩
    · exact h.after_aside e
    · exact h.after_vmFail e
    · exact h.after_vmEntry root current ordinary (fun l => by cases l) e
  | vmresume =>
    rcases execVmresume_next e with e | ⟨⟨root, -, -⟩, e | ⟨p, current, ordinary, launched, e⟩⟩
    · exact h.after_aside e
    · exact h.after_vmFail e
    · exact h.after_vmEntry root current ordinary (fun _ => launched) e
  | vmxoff =>
    rcases execVmxoff_next e with e | ⟨-, e⟩
    · exact h.after_aside e
    · exact h.after_vmxoff.after_vmSucceed e
  | vmptrld m =>
    rcases execVmptrld_next e with e | ⟨⟨root, -, -⟩, e | ⟨p, -, -, -, e⟩⟩
    · exact h.after_aside e
    · exact h.after_vmFail e
    · exact (h.after_vmptrld root p).after_vmSucceed e
  | vmclear m =>
    rcases execVmclear_next e with e | ⟨⟨root, -, -⟩, e | ⟨p, -, -, -, -, e⟩⟩
    · exact h.after_aside e
    · exact h.after_vmFail e
    · exact (h.after_clearVmcs root p).after_vmSucceed e
  | vmxon m =>
    rcases execVmxon_next e with e | e | ⟨-, supported, q, -, -, -, -, e⟩
    · exact h.after_aside e
    · exact h.after_vmFail e
    · exact (h.after_vmxon supported q).after_vmSucceed e
  | vmptrst m =>
    rcases execVmptrst_next e with e | ⟨⟨root, -, -⟩, u, hu, e⟩
    · exact h.after_aside e
    · obtain ⟨as, bs, rfl⟩ := writeMem_ok hu
      exact (h.after_storeAt root as bs).after_vmSucceed e
  | vmread o r => exact h.after_vmread e
  | vmwrite r o =>
    rcases execVmwrite_next e with e | ⟨⟨root, -, -⟩, e | ⟨p, f, x, -, -, -, e⟩⟩
    · exact h.after_aside e
    · exact h.after_vmFail e
    · exact (h.after_putVmcs root _ _).after_vmSucceed e
  | cpuid =>
    rcases execCpuid_next e with e | rfl
    · exact h.after_aside e
    · exact h.of_legalView_eq rfl
  | wrmsr =>
    rcases execWrmsr_next e with e | ⟨-, r, -, e⟩
    · exact h.after_aside e
    · exact h.after_writeMsr e
  | movToCr n r => exact h.after_movToCr e
  | movFromCr r n =>
    rcases execMovFromCr_next e with e | ⟨v, -, rfl⟩
    · exact h.after_aside e
    · exact h.of_legalView_eq rfl
  | clts =>
    rcases execClts_next e with e | ⟨a, rfl⟩
    · exact h.after_aside e
    · exact (h.setCr0 a).after_complete
  | lmsw o =>
    rcases execLmsw_next e with e | ⟨x, -, a, rfl⟩
    · exact h.after_aside e
    · exact (h.setCr0 a).after_complete
  | getsec =>
    rcases execGetsec_next e with e | ⟨smx, b, rfl⟩
    · exact h.after_aside e
    · exact (h.setSmxOp smx b).after_complete
  | hlt =>
    rcases execHlt_next e with e | rfl
    · exact h.after_aside e
    · exact h.of_legalView_eq rfl
  | mwait =>
    rcases execMwait_next e with e | rfl
    · exact h.after_aside e
    · exact h.of_legalView_eq rfl
  | sti =>
    rcases execSti_next e with e | rfl
    · exact h.after_aside e
    · exact h.of_legalView_eq rfl

theorem after_rdmsr {t : State} (e : execRdmsr s = .next t) : LegalState t := by
  rcases execRdmsr_next e with e | ⟨-, r, -, rfl⟩
  · exact h.after_aside e
  · exact h.of_legalView_eq rfl

theorem after_resetTo {fc : Word} (legal : featureControlLegal s.cfg fc = true) : LegalState (resetTo fc s) where
  config := h.config
  memory := Memory.wf_resetImages _ _ _ h.memory
  vmcss := sorted_forgetActive _ _ h.vmcss
  otherMsrs := rfl
  active := rfl
  current _ e := by cases e
  fixedBits n := by cases n
  a20m n := by cases n
  guest n := by cases n
  smx _ := rfl
  featureControl := legal

end LegalState

theorem legalState_keptByParts : KeptByParts LegalState where
  bookkeeping _ _ _ _ h := h.of_legalView_eq rfl
  raised _ _ h := h.of_legalView_eq rfl
  next _ _ h := h.of_legalView_eq rfl
  exit _ _ _ h guest e := h.after_vmExit guest e
  instr _ _ _ h e := h.after_exec e
  rdmsr _ _ h e := h.after_rdmsr e
  a20m _ b h outside := h.setA20m outside b
  activity _ _ _ h := h.of_legalView_eq rfl
  sipi _ h := h.of_legalView_eq rfl
  reset s fc h e := h.after_resetTo (by
    rcases e with rfl | rfl
    · exact featureControlLegal_zero s.cfg
    · exact h.featureControl)

/-- Settles O12: in VMX operation CR0 and CR4 change only to values it admits, and a VM exit loads the host values
that the VM entry before it found supported. -/
theorem stepKeepsLegal : Obligations.StepKeepsLegal := by
  unfold Obligations.StepKeepsLegal
  intro s t h e
  exact legalState_keptByParts.keeps_step h e

end Sys2Proof.Machine
end

section
/-! PROOFS. What an instruction changes of the state of VMX operation (10_state.md R20, R29, R60 to R65): said once, for
every statement about the VMX mode, the current and the active VMCSs, the launch states and IA32_FEATURE_CONTROL. -/

namespace Sys2Proof.Machine

/-! ## The state of VMX operation -/

/-- The constants, IA32_FEATURE_CONTROL, the VMX mode and the VMCSs. -/
def vmxView (s : State) := (s.cfg, s.featureControl, s.vmxMode, s.currentVmcs, s.active, s.vmcss)

section
variable {t u : State} (h : vmxView t = vmxView u)
include h

theorem cfg_of_vmxView_eq : t.cfg = u.cfg := congrArg (·.1) h

theorem featureControl_of_vmxView_eq : t.featureControl = u.featureControl := congrArg (·.2.1) h

theorem vmxMode_of_vmxView_eq : t.vmxMode = u.vmxMode := congrArg (·.2.2.1) h

theorem currentVmcs_of_vmxView_eq : t.currentVmcs = u.currentVmcs := congrArg (·.2.2.2.1) h

theorem active_of_vmxView_eq : t.active = u.active := congrArg (·.2.2.2.2.1) h

theorem vmcsAt_of_vmxView_eq (q : Word) : vmcsAt t q = vmcsAt u q := by
  have hv : t.vmcss = u.vmcss := congrArg (·.2.2.2.2.2) h
  simp only [vmcsAt, hv]

end

/-- A VM exit keeps the constants, IA32_FEATURE_CONTROL, the pointers and every launch state, and ends in VMX root
operation (42_vm_entry_exit.md R196, R200). -/
theorem vmExit_vmxView {c : Trigger} {s t : State} (e : vmExit c s = .next t) :
    ∃ p v, v.launch = (vmcsAt s p).launch ∧ vmxView t = vmxView { putVmcs p v s with vmxMode := .root } := by
  obtain ⟨p, r, -, -, rfl⟩ := vmExit_next e
  exact ⟨p, _, exitVmcs_launch s p c r, rfl⟩

theorem launch_putVmcs {s : State} {p : Word} {v : Vmcs} (h : v.launch = (vmcsAt s p).launch) (q : Word) :
    (vmcsAt (putVmcs p v s) q).launch = (vmcsAt s q).launch := by
  by_cases hq : q = p
  · rw [hq, vmcsAt_putVmcs_self, h]
  · rw [vmcsAt_putVmcs_of_ne hq]

/-! ## The changes that instructions make -/

/-- The addresses of a store that completes: those of the operand, none of them the processor's (20_memory.md R91). -/
theorem writeMem_addrs {s t : State} {m : MemOperand} {n : Nat} {v : Word} (h : writeMem s m n v = .ok t) :
    ∃ as bs, physAddrs s .write n (linearAddr s m) = .ok as ∧ as.any (processorOwned s) = false
      ∧ t = storeAt as bs s := by
  unfold writeMem at h
  split at h
  · obtain ⟨as, ha, ho, rfl⟩ := memWrite_ok h
    exact ⟨as, _, ha, ho, rfl⟩
  · cases h

/-- The instruction `i` in the state `s`, where it causes no VM exit, leaves the state of VMX operation as the third
argument has it. -/
inductive VmxChange (i : Instr) (s : State) : State → Prop
  | none : VmxChange i s s
  /-- WRMSR, while the lock bit is 0 (43_base_instructions.md R213). -/
  | featureControl (v : Word) (unlocked : s.featureControl.getLsbD 0 = false) :
      VmxChange i s { s with featureControl := v }
  /-- A field of a VMCS is written: VMWRITE, the error number of a failure, the record of an entry that fails late. -/
  | fields (root : s.vmxMode = .root) (p : Word) (v : Vmcs) (launch : v.launch = (vmcsAt s p).launch) :
      VmxChange i s (putVmcs p v s)
  | store (as : List Nat) (bs : List Byte) (stores : StoresTo i s as) (free : as.any (processorOwned s) = false) :
      VmxChange i s (storeAt as bs s)
  | vmxon (m : MemOperand) (is : i = .vmxon m) (outside : s.vmxMode = .outside) :
      VmxChange i s { s with vmxMode := .root, currentVmcs := .none }
  | vmxoff (is : i = .vmxoff) (root : s.vmxMode = .root) :
      VmxChange i s { s with vmxMode := .outside, vmcss := forgetActive (s.draws + 1) s.active s.vmcss }
  | vmptrld (m : MemOperand) (p : Word) (is : i = .vmptrld m) (read : readMem s m 8 = .ok p) :
      VmxChange i s { s with active := activate p s.active, currentVmcs := some p }
  | vmclear (m : MemOperand) (p : Word) (is : i = .vmclear m) (read : readMem s m 8 = .ok p) :
      VmxChange i s (clearVmcs p s)
  | vmlaunch (p : Word) (is : i = .vmlaunch) (root : s.vmxMode = .root) (current : s.currentVmcs = some p)
      (clear : (vmcsAt s p).launch = .clear) : VmxChange i s (enterGuest p true s)
  | vmresume (p : Word) (is : i = .vmresume) (root : s.vmxMode = .root) (current : s.currentVmcs = some p) :
      VmxChange i s (enterGuest p false s)

/-- What an instruction does to the state of VMX operation: a VM exit, or one of the changes. -/
def VmxEffect (i : Instr) (s t : State) : Prop :=
  (s.vmxMode = .nonRoot ∧ vmExit (triggerOf i s) s = .next t) ∨ ∃ u, VmxChange i s u ∧ vmxView t = vmxView u

namespace VmxEffect

variable {i : Instr} {s t u : State}

theorem of_unchanged (h : vmxView t = vmxView s) : VmxEffect i s t := .inr ⟨s, .none, h⟩

theorem of_aside (a : Aside (triggerOf i s) s t) : VmxEffect i s t := by
  rcases a with ⟨x, rfl⟩ | e
  · exact of_unchanged rfl
  · exact .inl e

theorem of_vmSucceed (c : VmxChange i s u) {v : State} (e : vmSucceed v = .next t) (h : vmxView v = vmxView u) :
    VmxEffect i s t := by
  rw [vmSucceed_next e]
  exact .inr ⟨u, c, h⟩

/-- A failure reports an error in the current VMCS at most; it may have used up an answer of `ENTRY_CHECK`. -/
theorem of_vmFail {l : List EntryVerdict} (e : vmFail { s with entryVerdicts := l } = .next t) : VmxEffect i s t := by
  rw [vmFail_next e]
  rcases reportFail_cases { s with entryVerdicts := l } with r | ⟨f, r⟩ | ⟨root, p, x, -, r⟩
  · exact of_unchanged (by rw [r]; rfl)
  · exact of_unchanged (by rw [r]; rfl)
  · have root : s.vmxMode = .root := root
    have c : VmxChange i s _ := .fields root p _ (setField_launch s.cfg .vmInstructionError x (vmcsAt s p))
    exact .inr ⟨_, c, by rw [r]; rfl⟩

/-- A VM entry that enters no guest writes fields of the current VMCS at most (42_vm_entry_exit.md R189). -/
theorem of_vmEntry (root : s.vmxMode = .root) {p : Word} {l : Bool}
    (enters : VmxChange i s (enterGuest p l s)) (e : vmEntry p l s = .next t) : VmxEffect i s t := by
  rcases vmEntry_next e with ⟨-, e⟩ | ⟨-, e⟩ | ⟨-, rfl⟩
  · exact of_vmFail e
  · obtain ⟨r, rfl⟩ := failEntryLate_next e
    have c : VmxChange i s _ := .fields root p _ (recordExit_launch s.cfg
      (recordValues { s with entryVerdicts := s.entryVerdicts.tail } noOperands r) (vmcsAt s p))
    refine .inr ⟨_, c, ?_⟩
    simp only [vmxView, putVmcs_vmxMode, root]
    rfl
  · exact .inr ⟨_, enters, rfl⟩

theorem of_writeMem {m : MemOperand} {n : Nat} {x : Word} (e : writeMem s m n x = .ok u)
    (stores : ∀ as, physAddrs s .write n (linearAddr s m) = .ok as → StoresTo i s as) (h : vmSucceed u = .next t) :
    VmxEffect i s t := by
  obtain ⟨as, bs, ha, free, rfl⟩ := writeMem_addrs e
  exact of_vmSucceed (.store as bs (stores as ha) free) h rfl

theorem of_vmread {o : RmOperand} {r : Reg} (e : execVmread o r s = .next t) : VmxEffect (.vmread o r) s t := by
  rcases execVmread_next e with e | ⟨-, e | ⟨p, f, u, -, -, hu, k⟩⟩
  · exact of_aside e
  · exact of_vmFail e
  · cases o with
    | reg q =>
      obtain rfl := Except.ok.inj hu
      exact of_vmSucceed .none k rfl
    | mem m => exact of_writeMem hu (fun as ha => ⟨m, _, .inr ⟨r, rfl, rfl⟩, ha⟩) k

theorem of_writeMsr {r : Msr} {v : Word} (e : writeMsr r v s = .next t) : VmxEffect i s t := by
  rcases writeMsr_next e with ⟨x, rfl⟩ | ⟨unlocked, -, -, rfl⟩ | rfl | rfl | rfl | rfl | rfl | rfl | rfl | ⟨a, rfl⟩
  case inr.inl => exact .inr ⟨_, .featureControl v unlocked, rfl⟩
  all_goals exact of_unchanged rfl

theorem of_exec (e : exec i s = .next t) : VmxEffect i s t := by
  cases i with
  | vmcall => exact of_aside (execVmcall_next e)
  | vmlaunch =>
    rcases execVmlaunch_next e with e | ⟨⟨root, -, -⟩, e | ⟨p, current, -, clear, e⟩⟩
    · exact of_aside e
    · exact of_vmFail e
    · exact of_vmEntry root (.vmlaunch p rfl root current clear) e
  | vmresume =>
    rcases execVmresume_next e with e | ⟨⟨root, -, -⟩, e | ⟨p, current, -, -, e⟩⟩
    · exact of_aside e
    · exact of_vmFail e
    · exact of_vmEntry root (.vmresume p rfl root current) e
  | vmxoff =>
    rcases execVmxoff_next e with e | ⟨⟨root, -, -⟩, e⟩
    · exact of_aside e
    · exact of_vmSucceed (.vmxoff rfl root) e rfl
  | vmptrld m =>
    rcases execVmptrld_next e with e | ⟨-, e | ⟨p, hp, -, -, e⟩⟩
    · exact of_aside e
    · exact of_vmFail e
    · exact of_vmSucceed (.vmptrld m p rfl hp) e rfl
  | vmclear m =>
    rcases execVmclear_next e with e | ⟨-, e | ⟨p, hp, -, -, -, e⟩⟩
    · exact of_aside e
    · exact of_vmFail e
    · exact of_vmSucceed (.vmclear m p rfl hp) e rfl
  | vmxon m =>
    rcases execVmxon_next e with e | e | ⟨⟨-, -, outside, -⟩, -, q, -, -, -, -, e⟩
    · exact of_aside e
    · exact of_vmFail e
    · exact of_vmSucceed (.vmxon m rfl outside) e rfl
  | vmptrst m =>
    rcases execVmptrst_next e with e | ⟨-, u, hu, e⟩
    · exact of_aside e
    · exact of_writeMem hu (fun as ha => ⟨m, 8, .inl ⟨rfl, rfl⟩, ha⟩) e
  | vmread o r => exact of_vmread e
  | vmwrite r o =>
    rcases execVmwrite_next e with e | ⟨⟨root, -, -⟩, e | ⟨p, f, x, -, -, -, e⟩⟩
    · exact of_aside e
    · exact of_vmFail e
    · exact of_vmSucceed (.fields root p _ (setField_launch s.cfg f.field (writeAccess s p f x) _)) e rfl
  | cpuid =>
    rcases execCpuid_next e with e | rfl
    · exact of_aside e
    · exact of_unchanged rfl
  | wrmsr =>
    rcases execWrmsr_next e with e | ⟨-, r, -, e⟩
    · exact of_aside e
    · exact of_writeMsr e
  | movToCr n r =>
    rcases execMovToCr_next e with e | ⟨-, rfl⟩ | ⟨-, rfl⟩ | rfl | rfl | rfl
    · exact of_aside e
    all_goals exact of_unchanged rfl
  | movFromCr r n =>
    rcases execMovFromCr_next e with e | ⟨v, -, rfl⟩
    · exact of_aside e
    · exact of_unchanged rfl
  | clts =>
    rcases execClts_next e with e | ⟨-, rfl⟩
    · exact of_aside e
    · exact of_unchanged rfl
  | lmsw o =>
    rcases execLmsw_next e with e | ⟨x, -, -, rfl⟩
    · exact of_aside e
    · exact of_unchanged rfl
  | getsec =>
    rcases execGetsec_next e with e | ⟨-, b, rfl⟩
    · exact of_aside e
    · exact of_unchanged rfl
  | hlt =>
    rcases execHlt_next e with e | rfl
    · exact of_aside e
    · exact of_unchanged rfl
  | mwait =>
    rcases execMwait_next e with e | rfl
    · exact of_aside e
    · exact of_unchanged rfl
  | sti =>
    rcases execSti_next e with e | rfl
    · exact of_aside e
    · exact of_unchanged rfl

end VmxEffect

end Sys2Proof.Machine
end

section
/-! PROOFS. What no step and no instruction does but in the ways named: to the parameters, the VMX mode,
IA32_FEATURE_CONTROL, the launch states and the set of active VMCSs (10_state.md R20, R30, R37, R60, R61, R65). -/

namespace Sys2Proof.Machine

/-! ## The parameters -/

theorem aside_cfg {c : Trigger} {s t : State} (a : Aside c s t) : t.cfg = s.cfg := by
  rcases a with ⟨x, rfl⟩ | ⟨-, e⟩
  · rfl
  · obtain ⟨p, v, -, h⟩ := vmExit_vmxView e
    exact (cfg_of_vmxView_eq h).trans rfl

theorem exec_cfg {i : Instr} {s t : State} (e : exec i s = .next t) : t.cfg = s.cfg := by
  rcases VmxEffect.of_exec e with e | ⟨u, c, h⟩
  · exact aside_cfg (.inr e)
  · rw [cfg_of_vmxView_eq h]
    cases c <;> rfl

theorem cfg_keptByParts (cfg : Config) : KeptByParts (fun s => s.cfg = cfg) where
  bookkeeping _ _ _ _ h := h
  raised _ _ h := h
  next _ _ h := h
  exit _ _ _ h guest e := (aside_cfg (.inr ⟨guest, e⟩)).trans h
  instr _ _ _ h e := (exec_cfg e).trans h
  rdmsr _ _ h e := by
    rcases execRdmsr_next e with a | ⟨-, r, -, rfl⟩
    · exact (aside_cfg a).trans h
    · exact h
  a20m _ _ h _ := h
  activity _ _ _ h := h
  sipi _ h := h
  reset _ _ h _ := h

/-- Settles O14: no part of a step, a reset among them, writes a constant. -/
theorem parametersConstant : Obligations.ParametersConstant := by
  unfold Obligations.ParametersConstant
  intro s t e
  exact (cfg_keptByParts s.cfg).keeps_step rfl e

/-! ## The VMX mode -/

/-- Settles O15: of the changes that instructions make, those of VMXON, VMXOFF and the VM entries set the mode, and
every other change of it is a VM exit. -/
theorem modeTransitions : Obligations.ModeTransitions := by
  unfold Obligations.ModeTransitions
  intro i s t e changed
  rcases VmxEffect.of_exec e with ⟨guest, e⟩ | ⟨u, c, h⟩
  · obtain ⟨p, v, -, h⟩ := vmExit_vmxView e
    exact .inr (.inr (.inl ⟨guest, vmxMode_of_vmxView_eq h, e⟩))
  · have mode := vmxMode_of_vmxView_eq h
    cases c with
    | vmxon m is outside => exact .inl ⟨outside, mode, m, is⟩
    | vmxoff is root => exact .inr (.inr (.inr ⟨root, mode, is⟩))
    | vmlaunch p is root => exact .inr (.inl ⟨root, mode, .inl is⟩)
    | vmresume p is root => exact .inr (.inl ⟨root, mode, .inr is⟩)
    | none | featureControl | fields | store | vmptrld | vmclear => exact absurd mode changed

/-! ## IA32_FEATURE_CONTROL -/

theorem aside_featureControl {c : Trigger} {s t : State} (a : Aside c s t) : t.featureControl = s.featureControl := by
  rcases a with ⟨x, rfl⟩ | ⟨-, e⟩
  · rfl
  · obtain ⟨p, v, -, h⟩ := vmExit_vmxView e
    exact (featureControl_of_vmxView_eq h).trans rfl

theorem exitOr_featureControl {c : ExitCause} {o : Result} {s t : State} (e : exitOr c s o = .next t) :
    t.featureControl = s.featureControl ∨ o = .next t :=
  (exitOr_next e).imp_left fun e => aside_featureControl (.inr e)

theorem takeInit_featureControl {s t : State} (e : takeInit s = .next t) : t.featureControl = s.featureControl := by
  rcases takeInit_next e with e | rfl
  · exact aside_featureControl (s := { s with initPending := false }) (.inr e)
  · rfl

section
variable {s t : State} (locked : s.featureControl.getLsbD 0 = true)
include locked

theorem exec_featureControl_of_locked {i : Instr} (e : exec i s = .next t) : t.featureControl = s.featureControl := by
  rcases VmxEffect.of_exec e with e | ⟨u, c, h⟩
  · exact aside_featureControl (.inr e)
  · rw [featureControl_of_vmxView_eq h]
    cases c with
    | featureControl v unlocked => rw [locked] at unlocked; cases unlocked
    | _ => rfl

theorem runInstr_featureControl_of_locked (e : runInstr s = .next t) : t.featureControl = s.featureControl := by
  unfold runInstr at e
  split at e
  · obtain ⟨x, rfl⟩ := stopWith_next e
    rfl
  · next n _ => exact exec_featureControl_of_locked (s := withNext n s) locked e
  · next n _ =>
    rcases execRdmsr_next e with a | ⟨-, r, -, rfl⟩
    · exact aside_featureControl (s := withNext n s) a
    · rfl

theorem proceed_featureControl_of_locked (e : proceed s = .next t) : t.featureControl = s.featureControl := by
  unfold proceed at e
  split at e
  · exact takeInit_featureControl e
  · split at e
    · exact runInstr_featureControl_of_locked locked e
    · obtain rfl := Host.Outcome.next.inj e
      rfl

/-- A reset other than a power-up reset keeps a locked value unless the parameter says that it clears it
(70_reset_and_hazards.md R271, 90_conflicts.md C5). -/
theorem warmFeatureControl_of_locked (h : s.cfg.warmResetClearsFc = false) :
    warmFeatureControl s = s.featureControl := by
  simp only [warmFeatureControl, locked, h, Bool.not_false, Bool.and_self, if_true]

theorem takeEvent_featureControl_of_locked {x : Event} (e : takeEvent x s = .next t) :
    t.featureControl = s.featureControl ∨ x = .powerUpReset ∨ (s.cfg.warmResetClearsFc = true ∧ x = .warmReset) := by
  cases x with
  | init => exact .inl (takeInit_featureControl e)
  | a20m b =>
    obtain rfl := Host.Outcome.next.inj e
    exact .inl (by split <;> rfl)
  | sipi =>
    rcases takeSipi_next e with e | rfl
    · exact .inl (aside_featureControl (.inr e))
    · exact .inl rfl
  | wake =>
    obtain rfl := Host.Outcome.next.inj e
    exact .inl rfl
  | tripleFault =>
    rcases exitOr_featureControl e with h | e
    · exact .inl h
    · obtain rfl := Host.Outcome.next.inj e
      exact .inl rfl
  | powerUpReset => exact .inr (.inl rfl)
  | warmReset =>
    obtain rfl := Host.Outcome.next.inj e
    cases h : s.cfg.warmResetClearsFc with
    | true => exact .inr (.inr ⟨rfl, rfl⟩)
    | false => exact .inl (warmFeatureControl_of_locked locked h)
  | other n =>
    rcases exitOr_featureControl e with h | e
    · exact .inl h
    · cases e

end

/-- Settles O16: WRMSR writes the MSR only while its lock bit is 0, so that only a reset can change a locked one. -/
theorem lockedFeatureControl : Obligations.LockedFeatureControl := by
  unfold Obligations.LockedFeatureControl
  intro s t e locked
  cases hr : s.raised with
  | some x =>
    rw [step_raised hr] at e
    rcases exitOr_featureControl e with h | e
    · exact .inl h
    · cases e
  | none =>
    match hs : s.schedule with
    | [] =>
      rw [step_quiet hr hs] at e
      exact .inl (proceed_featureControl_of_locked (s := freshen s) locked e)
    | none :: l =>
      rw [step_none hr hs] at e
      exact .inl (proceed_featureControl_of_locked (s := { freshen s with schedule := l }) locked e)
    | some x :: l =>
      rw [step_event hr hs] at e
      rcases takeEvent_featureControl_of_locked (s := { freshen s with schedule := l }) locked e with
        h | rfl | ⟨c, rfl⟩
      · exact .inl h
      · exact .inr (.inl ⟨rfl, l, rfl⟩)
      · exact .inr (.inr ⟨rfl, c, l, rfl⟩)

/-! ## The launch states -/

/-- A store makes undefined what it touches of the listed VMCSs; the launch states of the others stay
(10_state.md R65; log 25). -/
theorem launch_storeAt (as : List Nat) (bs : List Byte) (s : State) (q : Word) :
    (vmcsAt (storeAt as bs s) q).launch = (vmcsAt s q).launch
      ∨ (vmcsAt (storeAt as bs s) q).launch = .undefined ∧ ∃ a ∈ as, inVmcsData s.cfg q a = true := by
  simp only [vmcsAt, storeAt_vmcss, forgetTouched, Table.find?_mapVal, BitVec.ofNat_toNat, BitVec.setWidth_eq]
  cases Table.find? q.toNat s.vmcss with
  | none => exact .inl rfl
  | some v =>
    simp only [Option.map_some, Option.getD_some]
    split
    · next touched =>
      obtain ⟨a, ha, hq⟩ := List.any_eq_true.1 touched
      exact .inr ⟨rfl, a, (List.mem_filter.1 ha).1, hq⟩
    · exact .inl rfl

/-- The data of an active VMCS is the processor's (20_memory.md R91). -/
theorem not_active_of_not_owned {s : State} {a : Nat} {q : Word} (free : processorOwned s a = false)
    (data : inVmcsData s.cfg q a = true) : q ∉ s.active := fun active => by
  simp only [processorOwned, Bool.or_eq_false_iff, List.any_eq_false] at free
  exact free.1 q active data

/-- VMXOFF makes the active VMCSs undefined (40_vmx_enter_leave.md R142, D10; log 28). -/
theorem vmcsAt_forgetActive (s : State) (n : Nat) (q : Word) :
    vmcsAt { s with vmcss := forgetActive n s.active s.vmcss } q
      = if q ∈ s.active then undefinedVmcs n else vmcsAt s q := by
  have listed : s.active.any (fun p => decide (p.toNat = q.toNat)) = decide (q ∈ s.active) := by
    rw [Bool.eq_iff_iff]
    simp [BitVec.toNat_inj]
  simp only [vmcsAt, find?_forgetActive, listed]
  split <;> simp_all

theorem vmcsAt_clearVmcs_self (s : State) (p : Word) : vmcsAt (clearVmcs p s) p = clearedVmcs s p :=
  vmcsAt_putVmcs_self p _ s

theorem vmcsAt_clearVmcs_of_ne {p q : Word} (h : q ≠ p) (s : State) : vmcsAt (clearVmcs p s) q = vmcsAt s q :=
  vmcsAt_putVmcs_of_ne h _ s

theorem vmcsAt_enterGuest_of_ne {p q : Word} (h : q ≠ p) (l : Bool) (s : State) :
    vmcsAt (enterGuest p l s) q = vmcsAt s q := by
  cases l with
  | true => exact vmcsAt_putVmcs_of_ne h _ s
  | false => rfl

/-- Settles O17: of the changes that instructions make, only those of VMLAUNCH, VMCLEAR, a store and VMXOFF reach a
launch state, the first two that of one VMCS. -/
theorem launchStateChanges : Obligations.LaunchStateChanges := by
  unfold Obligations.LaunchStateChanges
  intro i s t q e changed
  rcases VmxEffect.of_exec e with ⟨-, e⟩ | ⟨u, c, h⟩
  · obtain ⟨p, v, launch, h⟩ := vmExit_vmxView e
    rw [vmcsAt_of_vmxView_eq h] at changed
    exact absurd (launch_putVmcs launch q) changed
  · rw [vmcsAt_of_vmxView_eq h] at changed ⊢
    cases c with
    | vmlaunch p is root current clear =>
      by_cases hq : q = p
      · subst hq
        exact .inl ⟨is, current, clear, by rw [vmcsAt_enterGuest (fun l => by cases l)]⟩
      · exact absurd (by rw [vmcsAt_enterGuest_of_ne hq]) changed
    | vmclear m p is read =>
      by_cases hq : q = p
      · subst hq
        exact .inr (.inl ⟨⟨m, is, read⟩, by rw [vmcsAt_clearVmcs_self]; rfl⟩)
      · exact absurd (by rw [vmcsAt_clearVmcs_of_ne hq]) changed
    | store as bs stores free =>
      rcases launch_storeAt as bs s q with same | ⟨undefined, a, ha, data⟩
      · exact absurd same changed
      · have inactive := not_active_of_not_owned (by simpa using List.any_eq_false.1 free a ha) data
        exact .inr (.inr (.inl ⟨⟨as, a, stores, ha, data⟩, inactive, undefined⟩))
    | vmxoff is root =>
      have after := vmcsAt_forgetActive s (s.draws + 1) q
      by_cases active : q ∈ s.active
      · rw [if_pos active] at after
        exact .inr (.inr (.inr ⟨is, active, congrArg Vmcs.launch after⟩))
      · rw [if_neg active] at after
        exact absurd (congrArg Vmcs.launch after) changed
    | fields root p v launch => exact absurd (launch_putVmcs launch q) changed
    | none | featureControl | vmxon | vmptrld | vmresume => exact absurd rfl changed

/-! ## The current VMCS and the active ones -/

/-- A VM entry makes the VMCS of the link pointer active where VMCS shadowing is in force, and no other
(42_vm_entry_exit.md R192). -/
theorem enterGuest_active (p : Word) (l : Bool) (s : State) :
    (∀ q, q ∈ (enterGuest p l s).active ↔ q ∈ s.active) ∨ (vmcsShadowing s.cfg p (vmcsAt s p) = true
      ∧ ∀ q, q ∈ (enterGuest p l s).active ↔ q = fieldVal s.cfg p (vmcsAt s p) .linkPointer ∨ q ∈ s.active) := by
  by_cases h : vmcsShadowing s.cfg p (vmcsAt s p) = true
  · refine .inr ⟨h, fun q => ?_⟩
    rw [show (enterGuest p l s).active = _ from if_pos h, mem_activate]
  · exact .inl fun q => by rw [show (enterGuest p l s).active = _ from if_neg h]

/-- Settles O18: VMPTRLD, VMCLEAR and VMXON set the current-VMCS pointer; the first two and a VM entry with VMCS
shadowing change the active set by one pointer. -/
theorem activeAndCurrentChanges : Obligations.ActiveAndCurrentChanges := by
  unfold Obligations.ActiveAndCurrentChanges
  intro i s t e
  rcases VmxEffect.of_exec e with ⟨-, e⟩ | ⟨u, c, h⟩
  · obtain ⟨p, v, -, h⟩ := vmExit_vmxView e
    rw [currentVmcs_of_vmxView_eq h, active_of_vmxView_eq h]
    exact ⟨.inl rfl, .inl fun _ => .rfl⟩
  · rw [currentVmcs_of_vmxView_eq h, active_of_vmxView_eq h, vmxMode_of_vmxView_eq h]
    cases c with
    | vmxon m is => exact ⟨.inr (.inr (.inr ⟨⟨m, is⟩, rfl⟩)), .inl fun _ => .rfl⟩
    | vmptrld m p is read =>
      exact ⟨.inr (.inl ⟨m, p, is, read, rfl⟩), .inr (.inl ⟨m, p, is, read, fun q => mem_activate p q s.active⟩)⟩
    | vmclear m p is read =>
      refine ⟨?_, .inr (.inr (.inl ⟨m, p, is, read, fun q => mem_deactivate p q s.active⟩))⟩
      rw [clearVmcs_currentVmcs]
      split
      · next current => exact .inr (.inr (.inl ⟨m, p, is, read, current, rfl⟩))
      · exact .inl rfl
    | vmlaunch p is root current =>
      exact ⟨.inl rfl, (enterGuest_active p true s).imp_right fun ⟨shadowing, members⟩ =>
        .inr (.inr ⟨.inl is, rfl, p, current, shadowing, members⟩)⟩
    | vmresume p is root current =>
      exact ⟨.inl rfl, (enterGuest_active p false s).imp_right fun ⟨shadowing, members⟩ =>
        .inr (.inr ⟨.inr is, rfl, p, current, shadowing, members⟩)⟩
    | none | featureControl | fields | store | vmxoff => exact ⟨.inl rfl, .inl fun _ => .rfl⟩

end Sys2Proof.Machine
end

section
/-! PROOFS. An inactive processor, the state diagram of a VMCS, and the operands that cannot be accessed (10_state.md
R48, R69, R71; 20_memory.md R96). -/

namespace Sys2Proof.Machine

/-! ## The inactive processor -/

/-- Settles O8: with nothing pending, only an executing processor fetches. -/
theorem inactiveExecutesNothing : Obligations.InactiveExecutesNothing := by
  unfold Obligations.InactiveExecutesNothing
  intro s raised schedule pending inactive
  have idle : executing (freshen s) = false := by
    rcases inactive with h | h <;> simp [executing, h]
  calc step s = proceed (freshen s) := step_quiet raised schedule
    _ = .next (freshen s) := proceed_inactive pending idle

/-! ## VMCLEAR and VMPTRLD, by what they read -/

section
variable {s : State} {m : MemOperand} (ready : RootReady s)
include ready

theorem exec_vmclear_of_error {x : Stop} (read : readMem s m 8 = .error x) : exec (.vmclear m) s = stopWith s x := by
  simp only [exec, execVmclear, vmxPrologue_ready _ ready, read]

theorem exec_vmptrld_of_error {x : Stop} (read : readMem s m 8 = .error x) : exec (.vmptrld m) s = stopWith s x := by
  simp only [exec, execVmptrld, vmxPrologue_ready _ ready, read]

theorem exec_vmclear_of_read {p : Word} (read : readMem s m 8 = .ok p) (valid : validPtr s.cfg p = true)
    (other : p ≠ s.vmxonPtr) :
    exec (.vmclear m) s = if offMemory s p then .refused .regionNotMemory else vmSucceed (clearVmcs p s) := by
  simp [exec, execVmclear, vmxPrologue_ready _ ready, read, valid, other]

theorem exec_vmptrld_of_read {p : Word} (read : readMem s m 8 = .ok p) (ok : loadable s p = true) :
    exec (.vmptrld m) s = if offMemory s p then .refused .regionNotMemory
      else vmSucceed { s with active := activate p s.active, currentVmcs := some p } := by
  simp [exec, execVmptrld, vmxPrologue_ready _ ready, read, ok]

end

/-! ## The state diagram -/

theorem mem_enterGuest_active {s : State} {p x : Word} (l : Bool) (h : x ∈ s.active) :
    x ∈ (enterGuest p l s).active := by
  rcases enterGuest_active p l s with members | ⟨-, members⟩
  · exact (members x).2 h
  · exact (members x).2 (.inr h)

section
variable {s t : State} {m : MemOperand} (ready : RootReady s)
include ready

theorem triple_after_vmclear {x : Word} (read : readMem s m 8 = .ok x) (valid : validPtr s.cfg x = true)
    (other : x ≠ s.vmxonPtr) (e : exec (.vmclear m) s = .next t) : triple t x = (false, false, .clear) := by
  rw [exec_vmclear_of_read ready read valid other] at e
  split at e
  · cases e
  rw [vmSucceed_next e]
  have inactive : x ∉ deactivate x s.active := fun h => ((mem_deactivate x x s.active).1 h).2 rfl
  have notCurrent : (clearVmcs x s).currentVmcs ≠ some x := by
    rw [clearVmcs_currentVmcs]
    split
    · simp
    · assumption
  have clear : (vmcsAt (clearVmcs x s) x).launch = .clear := by rw [vmcsAt_clearVmcs_self]; rfl
  exact Prod.ext (decide_eq_false inactive) (Prod.ext (decide_eq_false notCurrent) clear)

/-- VMPTRLD of `p` makes `p` active and current, and moves no other VMCS but that it is not current. -/
theorem triple_after_vmptrld {p : Word} (read : readMem s m 8 = .ok p) (ok : loadable s p = true)
    (e : exec (.vmptrld m) s = .next t) (x : Word) :
    triple t x = (decide (x = p ∨ x ∈ s.active), decide (p = x), (vmcsAt s x).launch) := by
  rw [exec_vmptrld_of_read ready read ok] at e
  split at e
  · cases e
  rw [vmSucceed_next e]
  simp only [triple, complete_active, complete_currentVmcs, mem_activate, Option.some.injEq]
  rfl

theorem triple_after_vmlaunch {x : Word} (current : s.currentVmcs = some x) (active : x ∈ s.active)
    (e : exec .vmlaunch s = .next t) (entered : t.vmxMode = .nonRoot) : triple t x = (true, true, .launched) := by
  obtain ⟨root, -, -⟩ := ready
  have root' : s.vmxMode ≠ .nonRoot := by rw [root]; decide
  rcases VmxEffect.of_exec e with ⟨guest, -⟩ | ⟨u, c, h⟩
  · exact absurd guest root'
  · have mode := vmxMode_of_vmxView_eq h
    cases c with
    | vmlaunch p _ _ current' _ =>
      obtain rfl := Option.some.inj (current.symm.trans current')
      have launched := vmcsAt_enterGuest (p := x) (s := s) (l := true) fun l => by cases l
      simp only [triple, active_of_vmxView_eq h, currentVmcs_of_vmxView_eq h, vmcsAt_of_vmxView_eq h,
        enterGuest_currentVmcs, current, launched, mem_enterGuest_active true active, decide_true]
    | vmresume p is | vmxon m is | vmxoff is => cases is
    | none | featureControl | fields | store | vmptrld | vmclear => exact absurd (mode.symm.trans entered) root'

end

/-- Settles O31: VMCLEAR and VMPTRLD by the equations of what they do with the pointer they read, VMLAUNCH by what can
lead to VMX non-root operation. -/
theorem vmcsStateDiagram : Obligations.VmcsStateDiagram := by
  unfold Obligations.VmcsStateDiagram
  intro s t m x y ready distinct
  refine ⟨triple_after_vmclear ready, fun read ok e => ?_, fun read ok e => ?_, fun current active _ e entered =>
    triple_after_vmlaunch ready current active e entered⟩
  · simp [triple_after_vmptrld ready read ok e x]
  · simp [triple_after_vmptrld ready read ok e x, distinct, distinct.symm]

/-! ## Operands that cannot be accessed -/

theorem readMem_of_raises {s : State} {m : MemOperand} {n : Nat} {x : Exception} (h : OperandRaises s m .read n x) :
    readMem s m n = .error (.exn x) := by
  rcases h with ⟨unusable, rfl⟩ | ⟨usable, faults, rfl⟩
  · simp [readMem, unusable]
  · simp [readMem, memRead, usable, faults]

theorem writeMem_of_raises {s : State} {m : MemOperand} {n : Nat} {x : Exception} (h : OperandRaises s m .write n x)
    (v : Word) : writeMem s m n v = .error (.exn x) := by
  rcases h with ⟨unusable, rfl⟩ | ⟨usable, faults, rfl⟩
  · simp [writeMem, unusable]
  · simp [writeMem, memWrite, usable, faults]

/-- The operand size in bits, of the statements, is the size in bytes, of the model. -/
theorem operandBits_div (s : State) : operandBits s / 8 = operandBytes s := by
  unfold operandBytes modeBits natWidth
  split <;> rfl

section
variable {s : State} {m : MemOperand} {x : Stop}

theorem exec_vmxon_of_error (ready : VmxonReady s) (supported : VmxonSupported s) (read : readMem s m 8 = .error x) :
    exec (.vmxon m) s = stopWith s x := by
  obtain ⟨vmxe, mode, outside, privilege, lock, enabled⟩ := ready
  obtain ⟨cr0, cr4, a20m⟩ := supported
  have enabled : vmxonEnabled s = true := by
    rw [vmxonEnabled, lock, Bool.true_and]
    exact enabled
  simp [exec, execVmxon, vmxonOutside, vmxe, mode, outside, privilege, enabled, cr0, cr4, a20m, read]

section
variable (ready : RootReady s)
include ready

theorem exec_vmptrst_of_error (write : writeMem s m 8 (currentPtrValue s) = .error x) :
    exec (.vmptrst m) s = stopWith s x := by
  simp only [exec, execVmptrst, vmxPrologue_ready _ ready, write]

variable {r : Reg} {p : Word} {f : FieldAccess} (current : s.currentVmcs = some p) (selected : selectField s r = some f)
include current selected

theorem exec_vmread_of_error {o : RmOperand} (write : writeRm s o (operandBytes s) (readAccess s p f) = .error x) :
    exec (.vmread o r) s = stopWith s x := by
  simp only [exec, execVmread, vmxPrologue_ready _ ready, current, selected, write]

theorem exec_vmwrite_of_error {o : RmOperand} (writable : isExitInfo f.field = true → s.cfg.exitInfoWritable = true)
    (read : readRm s o (operandBytes s) = .error x) : exec (.vmwrite r o) s = stopWith s x := by
  have admitted : (isExitInfo f.field && !s.cfg.exitInfoWritable) = false := by
    cases h : isExitInfo f.field with
    | true => simp [writable h]
    | false => rfl
  simp only [exec, execVmwrite, vmxPrologue_ready _ ready, current, selected, admitted, Bool.false_eq_true,
    if_false, read]

end

theorem exec_lmsw_of_error {o : RmOperand} (runs : NotExiting (.lmsw o) s) (privilege : cpl s = 0)
    (read : readRm s o 2 = .error x) : exec (.lmsw o) s = stopWith s x := by
  simp only [exec, execLmsw, privileged_ready _ runs privilege, read]

end

/-- Settles O43: each of the seven forms passes on what stopped its operand access, and both stops are exceptions. -/
theorem operandFaults : Obligations.OperandFaults := by
  unfold Obligations.OperandFaults
  intro s m x
  refine ⟨fun ready h => ?_, fun ready supported h => ?_, fun ready h => ?_, fun r p f ready current selected => ?_,
    fun runs privilege h => ?_⟩
  · have read := readMem_of_raises h
    exact ⟨exec_vmptrld_of_error ready read, exec_vmclear_of_error ready read⟩
  · exact exec_vmxon_of_error ready supported (readMem_of_raises h)
  · exact exec_vmptrst_of_error ready (writeMem_of_raises h _)
  · rw [operandBits_div]
    exact ⟨fun h => exec_vmread_of_error (o := .mem m) ready current selected (writeMem_of_raises h _),
      fun writable h => exec_vmwrite_of_error (o := .mem m) ready current selected writable (readMem_of_raises h)⟩
  · exact exec_lmsw_of_error runs privilege (readMem_of_raises h)

end Sys2Proof.Machine
end

section
/-! PROOFS. A base instruction that causes no VM exit does the same in VMX non-root as in VMX root operation
(10_state.md R23, 60_exceptions.md R258). -/

namespace Sys2Proof.Machine

/-! ## One state in two modes -/

/-- The state in VMX non-root operation. -/
def inNonRoot (s : State) : State := { s with vmxMode := .nonRoot }

/-- The state in VMX root operation. -/
def inRoot (s : State) : State := { s with vmxMode := .root }

theorem inNonRoot_of_guest {s : State} (guest : s.vmxMode = .nonRoot) : inNonRoot s = s := by
  rw [inNonRoot, ← guest]

/-- `f` does the same in the two modes, the mode put back. -/
def SameInModes (s : State) (f : State → Result) : Prop := f (inNonRoot s) = inMode .nonRoot (f (inRoot s))

section
variable {s : State}

/-- A choice that does not depend on the mode. -/
theorem SameInModes.ite {c : State → Prop} [∀ s, Decidable (c s)] {f g : State → Result}
    (h : c (inNonRoot s) ↔ c (inRoot s)) (hf : SameInModes s f) (hg : SameInModes s g) :
    SameInModes s (fun s => if c s then f s else g s) := by
  unfold SameInModes at *
  by_cases k : c (inRoot s)
  · simpa only [if_pos k, if_pos (h.2 k)] using hf
  · simpa only [if_neg k, if_neg (mt h.1 k)] using hg

theorem SameInModes.basePrologue {c : State → Trigger} {body : State → Result}
    (runs : exits (inNonRoot s) (c (inNonRoot s)) = false) (same : SameInModes s body) :
    SameInModes s (fun s => basePrologue (c s) s body) :=
  calc Machine.basePrologue (c (inNonRoot s)) (inNonRoot s) body
    _ = body (inNonRoot s) := basePrologue_ready body fun _ => runs
    _ = inMode .nonRoot (body (inRoot s)) := same
    _ = inMode .nonRoot (Machine.basePrologue (c (inRoot s)) (inRoot s) body) := by
      rw [basePrologue_ready body fun root => by cases root]

theorem SameInModes.privileged {c : State → Trigger} {body : State → Result}
    (runs : exits (inNonRoot s) (c (inNonRoot s)) = false) (same : SameInModes s body) :
    SameInModes s (fun s => privileged (c s) s body) :=
  .basePrologue runs (.ite (c := fun s => cpl s ≠ 0) (f := raise .generalProtection) .rfl rfl same)

theorem sameInModes_stopWith (e : Stop) : SameInModes s (stopWith · e) := by cases e <;> rfl

/-! ## Model-specific registers -/

theorem sameInModes_writeMsr (r : Msr) (v : Word) : SameInModes s (writeMsr r v) := by
  cases r with
  | featureControl =>
    exact .ite (c := fun s => s.featureControl.getLsbD 0 = true) (f := raise .generalProtection) .rfl rfl
      (.ite (c := fun s => (!enablesSupported s.cfg v) = true) (f := raise .generalProtection) .rfl rfl
        (.ite (c := fun _ => v >>> 3 ≠ 0) (f := fun _ => .refused .featureControlReserved) .rfl rfl rfl))
  | _ => rfl

/-! ## Control registers -/

/-- Without an unrestricted guest, VMX non-root operation admits the values of CR0 that VMX root operation admits
(10_state.md R27, R28). -/
theorem cr0Allowed_inNonRoot (restricted : ∀ p, s.currentVmcs = some p → unrestrictedGuest s.cfg p (vmcsAt s p) = false)
    (x : Word) : cr0Allowed (inNonRoot s) x = cr0Allowed (inRoot s) x := by
  cases current : s.currentVmcs with
  | none => simp only [cr0Allowed, inNonRoot, inRoot, current]
  | some p =>
    have guest : cr0Allowed (inNonRoot s) x = guestCr0Ok s.cfg p (vmcsAt s p) x := by
      simp only [cr0Allowed, inNonRoot, current]
      rfl
    rw [guest, cr0Allowed_root rfl, guestCr0Ok, restricted p current]
    rfl

theorem sameInModes_writeCr4 (v : Word) : SameInModes s (writeCr4 v) :=
  .ite (c := fun s => (cr4Allowed s v && (s.cfg.vmx || !v.getLsbD 13)) = true)
    (f := fun s => .next (complete { s with cr4 := v })) (g := raise .generalProtection) .rfl rfl rfl

section
variable (restricted : ∀ p, s.currentVmcs = some p → unrestrictedGuest s.cfg p (vmcsAt s p) = false)
include restricted

theorem sameInModes_writeCr0 (v : Word) : SameInModes s (writeCr0 v) :=
  .ite (c := fun s => cr0Allowed s v = true) (f := fun s => .next (complete { s with cr0 := v }))
    (g := raise .generalProtection) (by rw [cr0Allowed_inNonRoot restricted]) rfl rfl

theorem sameInModes_writeCr (n : BitVec 4) (v : Word) : SameInModes s (writeCr n v) := by
  unfold SameInModes writeCr
  split
  · exact sameInModes_writeCr0 restricted v
  · rfl
  · rfl
  · exact sameInModes_writeCr4 v
  · exact SameInModes.ite (c := fun _ => v >>> 4 = 0) (f := fun s => .next (complete { s with cr8 := v }))
      (g := raise .generalProtection) .rfl rfl rfl

end

/-! ## Operands -/

section
variable (alike : ∀ lin, Machine.translate (inRoot s) .read lin = Machine.translate (inNonRoot s) .read lin)
include alike

theorem physAddrs_inRoot (n : Nat) (lin : Word) :
    physAddrs (inRoot s) .read n lin = physAddrs (inNonRoot s) .read n lin := by
  induction n generalizing lin with
  | zero => rfl
  | succ n ih =>
    have wrap : wrapMode (inRoot s) = wrapMode (inNonRoot s) := rfl
    simp only [physAddrs, wrap, alike, ih]

theorem readMem_inRoot (m : MemOperand) (n : Nat) : readMem (inRoot s) m n = readMem (inNonRoot s) m n := by
  have usable : segUsable (inRoot s) = segUsable (inNonRoot s) := rfl
  have linear : linearAddr (inRoot s) = linearAddr (inNonRoot s) := rfl
  have bytes : loadByte (inRoot s) = loadByte (inNonRoot s) := rfl
  simp only [readMem, memRead, usable, linear, bytes, physAddrs_inRoot alike]

end

theorem readRm_inRoot (o : RmOperand) (n : Nat)
    (alike : ∀ m, o = .mem m →
      ∀ lin, Machine.translate (inRoot s) .read lin = Machine.translate (inNonRoot s) .read lin) :
    readRm (inRoot s) o n = readRm (inNonRoot s) o n := by
  cases o with
  | reg r => rfl
  | mem m => exact readMem_inRoot (alike m rfl) m n

/-! ## The instructions -/

theorem sameInModes_wrmsr (runs : exits (inNonRoot s) (triggerOf .wrmsr (inNonRoot s)) = false) :
    SameInModes s execWrmsr := by
  refine .privileged runs ?_
  have msr : msrAt (inRoot s).cfg ((gpr .rcx (inRoot s)).setWidth 32)
    = msrAt (inNonRoot s).cfg ((gpr .rcx (inNonRoot s)).setWidth 32) := rfl
  unfold SameInModes
  beta_reduce
  rw [msr]
  split
  · rfl
  · next r _ => exact sameInModes_writeMsr r (edxEax s)

theorem sameInModes_movFromCr {r : Reg} {n : BitVec 4}
    (runs : exits (inNonRoot s) (triggerOf (.movFromCr r n) (inNonRoot s)) = false) :
    SameInModes s (execMovFromCr r n) := by
  have value : readCr (inRoot s) n = readCr (inNonRoot s) n := rfl
  unfold SameInModes execMovFromCr
  rw [value]
  split
  · rfl
  · next v _ =>
    exact SameInModes.privileged (c := triggerOf (.movFromCr r n)) runs
      (body := fun s => .next (complete (setGpr r (truncTo (modeBits s) v) s))) rfl

theorem sameInModes_getsec (runs : exits (inNonRoot s) (triggerOf .getsec (inNonRoot s)) = false) :
    SameInModes s execGetsec := by
  refine .ite (c := fun s => (!s.cfg.smx) = true) (f := raise .invalidOpcode) .rfl rfl (.basePrologue runs ?_)
  have leaf : ((gpr .rax (inRoot s)).setWidth 32).toNat = ((gpr .rax (inNonRoot s)).setWidth 32).toNat := rfl
  unfold SameInModes
  beta_reduce
  rw [leaf]
  split <;> rfl

theorem sameInModes_sti (runs : exits (inNonRoot s) (triggerOf .sti (inNonRoot s)) = false) :
    SameInModes s execSti :=
  .basePrologue runs (.ite (c := fun s => stiAllowed s = true)
    (f := fun s =>
      .next { complete { s with rflags := setBit 9 s.rflags } with blockingBySti := !s.rflags.getLsbD 9 })
    (g := raise .generalProtection) .rfl rfl rfl)

section
variable (restricted : ∀ p, s.currentVmcs = some p → unrestrictedGuest s.cfg p (vmcsAt s p) = false)
include restricted

theorem sameInModes_movToCr {n : BitVec 4} {r : Reg}
    (runs : exits (inNonRoot s) (triggerOf (.movToCr n r) (inNonRoot s)) = false) : SameInModes s (execMovToCr n r) :=
  .ite (c := fun s => (readCr s n).isNone = true) (f := raise .invalidOpcode) .rfl rfl
    (.privileged (c := triggerOf (.movToCr n r)) runs
      (body := fun s => writeCr n (crSource r s) s) (sameInModes_writeCr restricted n (crSource r s)))

theorem sameInModes_lmsw {o : RmOperand}
    (alike : ∀ m, o = .mem m →
      ∀ lin, Machine.translate (inRoot s) .read lin = Machine.translate (inNonRoot s) .read lin)
    (runs : exits (inNonRoot s) (triggerOf (.lmsw o) (inNonRoot s)) = false) : SameInModes s (execLmsw o) := by
  refine .privileged (c := triggerOf (.lmsw o)) runs ?_
  unfold SameInModes
  beta_reduce
  rw [readRm_inRoot o 2 alike]
  split
  · next e _ => exact sameInModes_stopWith e
  · next x _ => exact sameInModes_writeCr0 restricted (lmswValue s.cr0 x)

/-- Each base instruction with its own effect; `alike` is about the operand of LMSW (20_memory.md R96; log 14). -/
theorem sameInModes_exec {i : Instr} (base : isVmx i = false)
    (runs : exits (inNonRoot s) (triggerOf i (inNonRoot s)) = false)
    (alike : ∀ m, i = .lmsw (.mem m) →
      ∀ lin, Machine.translate (inRoot s) .read lin = Machine.translate (inNonRoot s) .read lin) :
    SameInModes s (exec i) := by
  cases i with
  | cpuid => exact .basePrologue runs rfl
  | wrmsr => exact sameInModes_wrmsr runs
  | movToCr n r => exact sameInModes_movToCr restricted runs
  | movFromCr r n => exact sameInModes_movFromCr runs
  | clts => exact .privileged runs (sameInModes_writeCr0 restricted (clearBit 3 s.cr0))
  | lmsw o => exact sameInModes_lmsw restricted (fun m h => alike m (by rw [h])) runs
  | getsec => exact sameInModes_getsec runs
  | hlt => exact .privileged runs rfl
  | mwait => exact .basePrologue runs rfl
  | sti => exact sameInModes_sti runs
  | _ => cases base

end

end

/-- Settles O20: without a VM exit and without an unrestricted guest, no check and no effect of a base instruction
tells the two modes apart. -/
theorem guestCannotTell : Obligations.GuestCannotTell := by
  unfold Obligations.GuestCannotTell
  intro i s base guest runs restricted alike
  have same := inNonRoot_of_guest guest
  have : SameInModes s (exec i) := sameInModes_exec restricted base (by rwa [same]) (by rwa [same])
  rwa [SameInModes, same] at this

end Sys2Proof.Machine
end

section
/-! PROOFS. Which instructions write memory, and at which addresses (20_memory.md R90, R91, R100). -/

namespace Sys2Proof.Machine

/-! ## What leaves memory as it is -/

theorem vmSucceed_mem {s t : State} (e : vmSucceed s = .next t) : t.mem = s.mem := by
  rw [vmSucceed_next e]
  rfl

theorem reportFail_mem (s : State) : (reportFail s).mem = s.mem := by
  rcases reportFail_cases s with r | ⟨f, r⟩ | ⟨-, p, x, -, r⟩ <;> rw [r]

theorem vmFail_mem {s t : State} (e : vmFail s = .next t) : t.mem = s.mem := by
  rw [vmFail_next e]
  exact reportFail_mem s

/-- A VM exit saves and loads in the VMCS, which is no part of `mem` (42_vm_entry_exit.md R196 to R200). -/
theorem aside_mem {c : Trigger} {s t : State} (a : Aside c s t) : t.mem = s.mem := by
  rcases a with ⟨x, rfl⟩ | ⟨-, e⟩
  · rfl
  · obtain ⟨p, r, -, -, rfl⟩ := vmExit_next e
    rfl

theorem vmEntry_mem {p : Word} {l : Bool} {s t : State} (e : vmEntry p l s = .next t) : t.mem = s.mem := by
  rcases vmEntry_next e with ⟨-, e⟩ | ⟨-, e⟩ | ⟨-, rfl⟩
  · exact (vmFail_mem e).trans rfl
  · obtain ⟨r, rfl⟩ := failEntryLate_next e
    rfl
  · rfl

theorem writeMsr_mem {r : Msr} {v : Word} {s t : State} (e : writeMsr r v s = .next t) : t.mem = s.mem := by
  rcases writeMsr_next e with ⟨x, rfl⟩ | ⟨-, -, -, rfl⟩ | rfl | rfl | rfl | rfl | rfl | rfl | rfl | ⟨a, rfl⟩ <;> rfl

/-! ## What instructions write -/

/-- What the instruction `i`, run from `s` to `t`, does to memory. -/
inductive MemoryEffect (i : Instr) (s t : State) : Prop
  | kept (same : t.mem = s.mem)
  | stored (as : List Nat) (bs : List Byte) (stores : StoresTo i s as) (free : as.any (processorOwned s) = false)
      (after : t.mem = (storeAt as bs s).mem)
  | cleared (m : MemOperand) (p : Word) (is : i = .vmclear m) (read : readMem s m 8 = .ok p)
      (after : t.mem = (clearVmcs p s).mem)

namespace MemoryEffect

variable {i : Instr} {s t u : State}

theorem of_aside {c : Trigger} (a : Aside c s t) : MemoryEffect i s t := .kept (aside_mem a)

theorem of_aside_or {c : Trigger} {P : Prop} (h : Aside c s t ∨ P) (same : P → t.mem = s.mem) : MemoryEffect i s t :=
  .kept (h.elim aside_mem same)

theorem of_vmFail (e : vmFail s = .next t) : MemoryEffect i s t := .kept (vmFail_mem e)

theorem of_vmSucceed (k : vmSucceed u = .next t) (same : u.mem = s.mem) : MemoryEffect i s t :=
  .kept ((vmSucceed_mem k).trans same)

theorem of_writeMem {m : MemOperand} {n : Nat} {x : Word} (e : writeMem s m n x = .ok u)
    (stores : ∀ as, physAddrs s .write n (linearAddr s m) = .ok as → StoresTo i s as) (k : vmSucceed u = .next t) :
    MemoryEffect i s t := by
  obtain ⟨as, bs, ha, free, rfl⟩ := writeMem_addrs e
  exact .stored as bs (stores as ha) free (vmSucceed_mem k)

theorem of_vmptrst {m : MemOperand} (e : execVmptrst m s = .next t) : MemoryEffect (.vmptrst m) s t := by
  rcases execVmptrst_next e with a | ⟨-, u, hu, k⟩
  · exact of_aside a
  · exact of_writeMem hu (fun as ha => ⟨m, 8, .inl ⟨rfl, rfl⟩, ha⟩) k

/-- VMREAD to a register writes no memory. -/
theorem of_vmread {o : RmOperand} {r : Reg} (e : execVmread o r s = .next t) : MemoryEffect (.vmread o r) s t := by
  rcases execVmread_next e with a | ⟨-, e | ⟨p, f, u, -, -, hu, k⟩⟩
  · exact of_aside a
  · exact of_vmFail e
  · cases o with
    | reg q =>
      obtain rfl := Except.ok.inj hu
      exact of_vmSucceed k rfl
    | mem m => exact of_writeMem hu (fun as ha => ⟨m, _, .inr ⟨r, rfl, rfl⟩, ha⟩) k

theorem of_vmclear {m : MemOperand} (e : execVmclear m s = .next t) : MemoryEffect (.vmclear m) s t := by
  rcases execVmclear_next e with a | ⟨-, e | ⟨p, read, -, -, -, k⟩⟩
  · exact of_aside a
  · exact of_vmFail e
  · exact .cleared m p rfl read (vmSucceed_mem k)

/-- VMPTRST, VMREAD and VMCLEAR have their own effect; every other instruction leaves memory as it is. -/
theorem of_exec (e : exec i s = .next t) : MemoryEffect i s t := by
  cases i with
  | vmptrst m => exact of_vmptrst e
  | vmread o r => exact of_vmread e
  | vmclear m => exact of_vmclear e
  | vmcall => exact of_aside (execVmcall_next e)
  | vmlaunch =>
    rcases execVmlaunch_next e with a | ⟨-, e | ⟨p, -, -, -, e⟩⟩
    · exact of_aside a
    · exact of_vmFail e
    · exact .kept (vmEntry_mem e)
  | vmresume =>
    rcases execVmresume_next e with a | ⟨-, e | ⟨p, -, -, -, e⟩⟩
    · exact of_aside a
    · exact of_vmFail e
    · exact .kept (vmEntry_mem e)
  | vmxoff => exact of_aside_or (execVmxoff_next e) fun ⟨_, k⟩ => (vmSucceed_mem k).trans rfl
  | vmptrld m =>
    rcases execVmptrld_next e with a | ⟨-, e | ⟨p, -, -, -, k⟩⟩
    · exact of_aside a
    · exact of_vmFail e
    · exact of_vmSucceed k rfl
  | vmxon m =>
    rcases execVmxon_next e with a | e | ⟨-, -, q, -, -, -, -, k⟩
    · exact of_aside a
    · exact of_vmFail e
    · exact of_vmSucceed k rfl
  | vmwrite r o =>
    rcases execVmwrite_next e with a | ⟨-, e | ⟨p, f, x, -, -, -, k⟩⟩
    · exact of_aside a
    · exact of_vmFail e
    · exact of_vmSucceed k rfl
  | cpuid => exact of_aside_or (execCpuid_next e) (by rintro rfl; rfl)
  | wrmsr => exact of_aside_or (execWrmsr_next e) fun ⟨_, _, _, e⟩ => writeMsr_mem e
  | movToCr n r =>
    refine of_aside_or (execMovToCr_next e) ?_
    rintro (⟨-, rfl⟩ | ⟨-, rfl⟩ | rfl | rfl | rfl) <;> rfl
  | movFromCr r n => exact of_aside_or (execMovFromCr_next e) (by rintro ⟨v, -, rfl⟩; rfl)
  | clts => exact of_aside_or (execClts_next e) (by rintro ⟨-, rfl⟩; rfl)
  | lmsw o => exact of_aside_or (execLmsw_next e) (by rintro ⟨x, -, -, rfl⟩; rfl)
  | getsec => exact of_aside_or (execGetsec_next e) (by rintro ⟨-, b, rfl⟩; rfl)
  | hlt => exact of_aside_or (execHlt_next e) (by rintro rfl; rfl)
  | mwait => exact of_aside_or (execMwait_next e) (by rintro rfl; rfl)
  | sti => exact of_aside_or (execSti_next e) (by rintro rfl; rfl)

end MemoryEffect

/-- Settles O19: a store reaches the bytes it addresses, which are not the processor's, and the image that VMCLEAR
leaves lies in the data of the region. -/
theorem memoryWriters : Obligations.MemoryWriters := by
  unfold Obligations.MemoryWriters
  intro i s t e
  cases MemoryEffect.of_exec e with
  | kept same => exact .inl same
  | stored as bs stores free after =>
    refine .inr (.inl ⟨as, stores, by simpa using free, fun a outside => ?_⟩)
    rw [after]
    exact storeAt_read_of_not_mem (.inl outside)
  | cleared m p is read after =>
    refine .inr (.inr ⟨m, p, is, read, fun a outside => ?_⟩)
    rw [after]
    exact imageBytes_read outside

end Sys2Proof.Machine
end

section
/-! PROOFS. The decoder reads back what the encoder wrote, in code of every size (30_encoding.md R118 to R121; log 12,
log 13). -/

namespace Sys2Proof

open Sys2Proof.Machine

/-! ## The prefixes of an encoding -/

/-- The mandatory bytes that an encoding may put before REX, and what the decoder notes of them (30_encoding.md
R120). -/
inductive Mandatory : List Byte → Bool → Option Bool → Prop
  | none : Mandatory [] false .none
  | opSize : Mandatory [0x66#8] true .none
  | rep : Mandatory [0xF3#8] false (some true)

/-- What the decoder notes of the prefixes of a memory form. -/
def memPrefixes (opSize : Bool) (rep : Option Bool) (rexR : Bool) (m : MemOperand) : Prefixes where
  opSize := opSize
  rep := rep
  seg := m.seg
  addrPrefix := m.addrPrefix
  rexR := rexR
  rexX := m.form.rexX
  rexB := m.form.rexB

theorem prefixes_segPrefix {seg : Option Seg} (h : segOverrideWf seg = true) (c : CodeSize) (t : List Byte) :
    prefixes c {} (segPrefix seg ++ t) = prefixes c { seg := seg } t := by
  match seg with
  | none => rfl
  | some s => cases s with
    | ldtr | tr => cases h
    | _ => rfl

theorem prefixes_addrPrefix (c : CodeSize) (seg : Option Seg) (a : Bool) (t : List Byte) :
    prefixes c { seg := seg } ((if a then [0x67#8] else []) ++ t) = prefixes c { seg := seg, addrPrefix := a } t := by
  cases a <;> rfl

theorem prefixes_mandatory {l : List Byte} {o : Bool} {r : Option Bool} (h : Mandatory l o r) (c : CodeSize)
    (seg : Option Seg) (a : Bool) (t : List Byte) :
    prefixes c { seg := seg, addrPrefix := a } (l ++ t)
      = prefixes c { opSize := o, rep := r, seg := seg, addrPrefix := a } t := by
  cases h <;> rfl

/-- The REX bits can be spelled in code of this size (30_encoding.md R118; log 13). -/
def RexFits (c : CodeSize) (r x b : Bool) : Prop := c.hasRex = true ∨ (r = false ∧ x = false ∧ b = false)

theorem prefixes_rexPrefix {c : CodeSize} {r x b : Bool} (fits : RexFits c r x b) (p : Prefixes) (t : List Byte) :
    prefixes c p.noRex (rexPrefix r x b ++ 0x0F#8 :: t) = ({ p with rexR := r, rexX := x, rexB := b }, 0x0F#8 :: t) := by
  rcases fits with rex | ⟨rfl, rfl, rfl⟩
  · cases c with
    | code64 => exact prefixes_rex p r x b t
    | code16 | code32 => cases rex
  · exact prefixes_opcode c p.noRex t

theorem prefixes_encodeMem {l : List Byte} {o : Bool} {q : Option Bool} (h : Mandatory l o q) {c : CodeSize} {r : Bool}
    {m : MemOperand} (wf : segOverrideWf m.seg = true) (fits : RexFits c r m.form.rexX m.form.rexB) (op : Byte)
    (reg : BitVec 3) (rest : List Byte) :
    prefixes c {} (encodeMem l op r reg m ++ rest)
      = (memPrefixes o q r m, 0x0F#8 :: op :: (m.form.bytes reg ++ rest)) := by
  simp only [encodeMem, List.append_assoc, List.cons_append, prefixes_segPrefix wf, prefixes_addrPrefix,
    prefixes_mandatory h]
  exact prefixes_rexPrefix fits { opSize := o, rep := q, seg := m.seg, addrPrefix := m.addrPrefix } _

/-! ## From the prefixes to the opcode -/

theorem decode_of_prefixes {c : CodeSize} {p : Prefixes} {bs t : List Byte} (h : prefixes c {} bs = (p, 0x0F#8 :: t)) :
    decode c bs = decode0F c p t := by
  simp only [decode, h]
  rfl

theorem decode_0F (c : CodeSize) (t : List Byte) : decode c (0x0F#8 :: t) = decode0F c {} t :=
  decode_of_prefixes (prefixes_opcode c {} t)

/-! ## Operands -/

theorem MemOperand.wf_iff (m : MemOperand) : m.wf = true ↔ segOverrideWf m.seg = true ∧ m.form.wf = true := by
  simp [MemOperand.wf]

theorem MemOperand.spelledIn_iff (c : CodeSize) (m : MemOperand) : MemOperand.spelledIn c m = true
    ↔ m.form.is16 = c.addr16 m.addrPrefix ∧ (c.hasRex = true ∨ (m.form.rexX = false ∧ m.form.rexB = false)) := by
  simp [MemOperand.spelledIn]

theorem Reg.spelledIn_iff (c : CodeSize) (r : Reg) : Reg.spelledIn c r = true ↔ c.hasRex = true ∨ r.hi = false := by
  simp [Reg.spelledIn]

theorem takeMem_of_form {c : CodeSize} {p : Prefixes} {mb : Byte} {t rest : List Byte} {f : AddrForm}
    (h : readsForm (c.addr16 p.addrPrefix) p mb t = .ok (f, rest)) :
    takeMem c p mb t = .ok ({ seg := p.seg, addrPrefix := p.addrPrefix, form := f }, rest) :=
  congrArg (Except.map _) h

/-- The bytes of a memory operand: a ModR/M byte with `reg` in its place, then what the decoder reads back. -/
theorem takeMem_bytes {c : CodeSize} {m : MemOperand} (wf : m.wf = true) (spelled : MemOperand.spelledIn c m = true)
    (reg : BitVec 3) (o : Bool) (q : Option Bool) (r : Bool) (rest : List Byte) :
    ∃ mb t, m.form.bytes reg ++ rest = mb :: t ∧ regOf mb = reg ∧ modOf mb ≠ 3#2
      ∧ takeMem c (memPrefixes o q r m) mb t = .ok (m, rest) := by
  obtain ⟨-, wfForm⟩ := m.wf_iff.1 wf
  obtain ⟨size, -⟩ := (m.spelledIn_iff c).1 spelled
  obtain ⟨mb, t, bytes, hreg, hmod, reads⟩ := takeForm_bytes reg m.form
  have form := reads wfForm (memPrefixes o q r m) rest rfl rfl
  rw [size] at form
  exact ⟨mb, t ++ rest, by rw [bytes, List.cons_append], hreg, hmod, takeMem_of_form form⟩

/-- An encoded memory form decodes as its opcode does, with a ModR/M byte and the operand after it. -/
theorem decode_encodeMem {l : List Byte} {o : Bool} {q : Option Bool} (h : Mandatory l o q) {c : CodeSize} {r : Bool}
    (hr : c.hasRex = true ∨ r = false) {m : MemOperand} (wf : m.wf = true)
    (spelled : MemOperand.spelledIn c m = true) (op : Byte) (reg : BitVec 3) (rest : List Byte) :
    ∃ mb t, regOf mb = reg ∧ modOf mb ≠ 3#2 ∧ takeMem c (memPrefixes o q r m) mb t = .ok (m, rest)
      ∧ decode c (encodeMem l op r reg m ++ rest) = decode0F c (memPrefixes o q r m) (op :: mb :: t) := by
  have fits : RexFits c r m.form.rexX m.form.rexB := by
    rcases hr with rex | rfl
    · exact .inl rex
    · exact ((m.spelledIn_iff c).1 spelled).2.imp_right fun bits => ⟨rfl, bits⟩
  obtain ⟨mb, t, bytes, hreg, hmod, reads⟩ := takeMem_bytes wf spelled reg o q r rest
  refine ⟨mb, t, hreg, hmod, reads, ?_⟩
  rw [decode_of_prefixes (prefixes_encodeMem h (m.wf_iff.1 wf).1 fits op reg rest), bytes]

/-- An encoded form with a register or memory operand decodes as its opcode does, without the prefixes that an "NP" row
excludes. -/
theorem decode_encodeRm {c : CodeSize} {r : Bool} (hr : c.hasRex = true ∨ r = false) {d : RmOperand}
    (wf : d.wf = true) (spelled : RmOperand.spelledIn c d = true) (op : Byte) (reg : BitVec 3) (rest : List Byte) :
    ∃ p mb t, p.np = true ∧ p.rexR = r ∧ regOf mb = reg ∧ takeRm c p mb t = .ok (d, rest)
      ∧ decode c (encodeRm op r reg d ++ rest) = decode0F c p (op :: mb :: t) := by
  cases d with
  | reg g =>
    have fits : RexFits c r false g.hi := by
      rcases hr with rex | rfl
      · exact .inl rex
      · exact ((g.spelledIn_iff c).1 spelled).imp_right fun low => ⟨rfl, rfl, low⟩
    refine ⟨{ rexR := r, rexB := g.hi }, modrm 3 reg g.lo, rest, rfl, rfl, regOf_modrm _ _ _, ?_, ?_⟩
    · simp [takeRm, modOf_modrm, rmOf_modrm, Reg.ofCode_hi_lo]
    · rw [encodeRm, List.append_assoc]
      exact decode_of_prefixes (prefixes_rexPrefix fits {} _)
  | mem m =>
    obtain ⟨mb, t, hreg, hmod, reads, decodes⟩ := decode_encodeMem .none hr wf spelled op reg rest
    refine ⟨_, mb, t, rfl, rfl, hreg, ?_, decodes⟩
    simp [takeRm, hmod, reads, Except.map]

theorem decode_encodeCr {c : CodeSize} {cr : BitVec 4} {r : Reg} (number : c.hasRex = true ∨ cr.getLsbD 3 = false)
    (spelled : Reg.spelledIn c r = true) (op : Byte) (rest : List Byte) :
    decode c (encodeCr op cr r ++ rest) = decode0F c { rexR := cr.getLsbD 3, rexB := r.hi }
      (op :: modrm 3 (cr.extractLsb' 0 3) r.lo :: rest) := by
  have fits : RexFits c (cr.getLsbD 3) false r.hi := by
    rcases number with rex | low
    · exact .inl rex
    · exact ((r.spelledIn_iff c).1 spelled).imp_right fun hi => ⟨low, rfl, hi⟩
  rw [encodeCr, List.append_assoc]
  exact decode_of_prefixes (prefixes_rexPrefix fits {} _)

/-! ## The opcodes with an operand -/

section
variable {c : CodeSize} {p : Prefixes} {mb : Byte} {t rest : List Byte}

/-- `/6` is LMSW: none of the fixed third bytes of `0F 01` has 110B in bits 5:3. -/
theorem decode0F01_lmsw {d : RmOperand} (hreg : regOf mb = 6#3) (reads : takeRm c p mb t = .ok (d, rest)) :
    decode0F01 c p (mb :: t) = .ok (.lmsw d, rest) := by
  have fixed : ∀ b ∈ [0xC1#8, 0xC2#8, 0xC3#8, 0xC4#8, 0xC9#8], regOf b ≠ 6#3 := by decide
  have other : ∀ b ∈ [0xC1#8, 0xC2#8, 0xC3#8, 0xC4#8, 0xC9#8], mb ≠ b := fun b hb e => fixed b hb (e ▸ hreg)
  simp only [List.forall_mem_cons] at other
  obtain ⟨h1, h2, h3, h4, h9, -⟩ := other
  simp [decode0F01, h1, h2, h3, h4, h9, hreg, reads, Except.map]

theorem decode0FC7_register (h : modOf mb = 3#2) :
    decode0FC7 c p (mb :: t) = .error (.unknownExtension 0xC7#8 mb) := by
  simp [decode0FC7, h]

theorem decodeTwo_vmread {d : RmOperand} (np : p.np = true) (reads : takeRm c p mb t = .ok (d, rest)) :
    decodeTwo c p 0x78#8 (mb :: t) = .ok (.vmread d (regField p mb), rest) := by
  simp [decodeTwo, np, reads, Except.map]

theorem decodeTwo_vmwrite {d : RmOperand} (np : p.np = true) (reads : takeRm c p mb t = .ok (d, rest)) :
    decodeTwo c p 0x79#8 (mb :: t) = .ok (.vmwrite (regField p mb) d, rest) := by
  simp [decodeTwo, np, reads, Except.map]

section
variable {m : MemOperand} (hmod : modOf mb ≠ 3#2)
include hmod

theorem decode0FC7_vmptrld (reg : regOf mb = 6#3) (np : p.rep = none ∧ p.opSize = false)
    (reads : takeMem c p mb t = .ok (m, rest)) : decode0FC7 c p (mb :: t) = .ok (.vmptrld m, rest) := by
  simp [decode0FC7, hmod, reg, np, reads, Except.map]

theorem decode0FC7_vmclear (reg : regOf mb = 6#3) (prefixed : p.rep = none ∧ p.opSize = true)
    (reads : takeMem c p mb t = .ok (m, rest)) : decode0FC7 c p (mb :: t) = .ok (.vmclear m, rest) := by
  simp [decode0FC7, hmod, reg, prefixed, reads, Except.map]

theorem decode0FC7_vmxon (reg : regOf mb = 6#3) (prefixed : p.rep = some true)
    (reads : takeMem c p mb t = .ok (m, rest)) : decode0FC7 c p (mb :: t) = .ok (.vmxon m, rest) := by
  simp [decode0FC7, hmod, reg, prefixed, reads, Except.map]

theorem decode0FC7_vmptrst (reg : regOf mb = 7#3) (np : p.np = true) (reads : takeMem c p mb t = .ok (m, rest)) :
    decode0FC7 c p (mb :: t) = .ok (.vmptrst m, rest) := by
  simp [decode0FC7, hmod, reg, np, reads, Except.map]

end

end

theorem crField_modrm (cr : BitVec 4) (b : Bool) (m : BitVec 2) (lo : BitVec 3) :
    crField { rexR := cr.getLsbD 3, rexB := b } (modrm m (cr.extractLsb' 0 3) lo) = cr := by
  rw [crField, regOf_modrm, crField_bits]

theorem regField_of {p : Prefixes} {mb : Byte} {r : Reg} (hi : p.rexR = r.hi) (lo : regOf mb = r.lo) :
    regField p mb = r := by
  rw [regField, hi, lo, Reg.ofCode_hi_lo]

/-! ## Every instruction -/

/-- In code of every size, decoding the encoding of an instruction that can be spelled there gives it back. -/
theorem decode_encode (c : CodeSize) (i : Instr) (rest : List Byte) (wf : i.wf = true)
    (spelled : spelledIn c i = true) : decode c (encode i ++ rest) = .ok (i, rest) := by
  cases i with
  | vmptrld m =>
    obtain ⟨mb, t, reg, hmod, reads, decodes⟩ := decode_encodeMem .none (.inr rfl) wf spelled 0xC7#8 6 rest
    exact decodes.trans (decode0FC7_vmptrld hmod reg ⟨rfl, rfl⟩ reads)
  | vmclear m =>
    obtain ⟨mb, t, reg, hmod, reads, decodes⟩ := decode_encodeMem .opSize (.inr rfl) wf spelled 0xC7#8 6 rest
    exact decodes.trans (decode0FC7_vmclear hmod reg ⟨rfl, rfl⟩ reads)
  | vmxon m =>
    obtain ⟨mb, t, reg, hmod, reads, decodes⟩ := decode_encodeMem .rep (.inr rfl) wf spelled 0xC7#8 6 rest
    exact decodes.trans (decode0FC7_vmxon hmod reg rfl reads)
  | vmptrst m =>
    obtain ⟨mb, t, reg, hmod, reads, decodes⟩ := decode_encodeMem .none (.inr rfl) wf spelled 0xC7#8 7 rest
    exact decodes.trans (decode0FC7_vmptrst hmod reg rfl reads)
  | vmread d f =>
    obtain ⟨operand, field⟩ := Bool.and_eq_true_iff.1 spelled
    obtain ⟨p, mb, t, np, hi, lo, reads, decodes⟩ :=
      decode_encodeRm ((f.spelledIn_iff c).1 field) wf operand 0x78#8 f.lo rest
    exact decodes.trans ((decodeTwo_vmread np reads).trans (by rw [regField_of hi lo]))
  | vmwrite f d =>
    obtain ⟨operand, field⟩ := Bool.and_eq_true_iff.1 spelled
    obtain ⟨p, mb, t, np, hi, lo, reads, decodes⟩ :=
      decode_encodeRm ((f.spelledIn_iff c).1 field) wf operand 0x79#8 f.lo rest
    exact decodes.trans ((decodeTwo_vmwrite np reads).trans (by rw [regField_of hi lo]))
  | lmsw d =>
    obtain ⟨p, mb, t, -, -, reg, reads, decodes⟩ := decode_encodeRm (.inr rfl) wf spelled 0x01#8 6 rest
    exact decodes.trans (decode0F01_lmsw reg reads)
  | movToCr cr r =>
    obtain ⟨number, source⟩ := Bool.and_eq_true_iff.1 spelled
    refine (decode_encodeCr (by simpa using number) source 0x22#8 rest).trans ?_
    simp only [decode0F, decodeTwo, crField_modrm, rmOf_modrm, Reg.ofCode_hi_lo]
    rfl
  | movFromCr r cr =>
    obtain ⟨number, target⟩ := Bool.and_eq_true_iff.1 spelled
    refine (decode_encodeCr (by simpa using number) target 0x20#8 rest).trans ?_
    simp only [decode0F, decodeTwo, crField_modrm, rmOf_modrm, Reg.ofCode_hi_lo]
    rfl
  | vmcall | vmlaunch | vmresume | vmxoff | cpuid | wrmsr | clts | getsec | mwait => exact decode_0F c _
  | hlt | sti => cases c <;> rfl

/-- Settles O1: the case of 64-bit code. -/
theorem decodeOfEncode : Obligations.DecodeOfEncode := by
  unfold Obligations.DecodeOfEncode
  exact decode_encode .code64

/-- Settles O2: the cases of 16-bit and of 32-bit code. -/
theorem decodeOfEncodeLegacy : Obligations.DecodeOfEncodeLegacy := by
  unfold Obligations.DecodeOfEncodeLegacy
  exact fun c i rest _ => decode_encode c i rest

/-- Settles O4: each word is the encoding of its instruction. -/
theorem decodeWords : Obligations.DecodeWords := by
  unfold Obligations.DecodeWords
  have word : ∀ i : Instr, i.wf = true → spelledIn .code64 i = true → decode .code64 (encode i ++ []) = .ok (i, []) :=
    fun i => decode_encode .code64 i []
  exact ⟨word .vmcall rfl rfl, word .vmxoff rfl rfl, word (.vmxon ⟨none, false, .base .rax .none⟩) rfl rfl,
    word (.vmclear ⟨none, false, .base .rbx .none⟩) rfl rfl, word (.vmread (.reg .rax) .rcx) rfl rfl,
    word (.movToCr 4 .rax) rfl rfl, word .wrmsr rfl rfl, word .hlt rfl rfl⟩

/-- Settles O5: the two prefixes are noted, and then a ModR/M byte with mod 11B is refused before they are looked at. -/
theorem pointerRegisterForms : Obligations.PointerRegisterForms := by
  unfold Obligations.PointerRegisterForms
  intro c mb rest register
  have after : ∀ (p : Prefixes) (bs : List Byte), prefixes c {} bs = (p, 0x0F#8 :: 0xC7#8 :: mb :: rest) →
      decode c bs = .error (.unknownExtension 0xC7#8 mb) := fun p bs noted =>
    (decode_of_prefixes noted).trans (decode0FC7_register register)
  exact ⟨after _ _ (prefixes_opcode c {} _), after _ _ (prefixes_opcode c { opSize := true } _),
    after _ _ (prefixes_opcode c { rep := some true } _)⟩

end Sys2Proof
end

section
/-! PROOFS. Whatever bytes the decoder reads, it answers an instruction that can be spelled in that code, and the bytes
after it (30_encoding.md R118 to R121; log 12, log 13). -/

namespace Sys2Proof

open Sys2Proof.Machine

/-! ## Readers -/

/-- A reader of the bytes `bs` that answers has read an `a` with `P a` and leaves bytes at the end of `bs`. -/
def Reads {α : Type} (P : α → Prop) (bs : List Byte) (r : Except DecodeError (α × List Byte)) : Prop :=
  ∀ a rest, r = .ok (a, rest) → P a ∧ rest <:+ bs

namespace Reads

variable {α β : Type} {P : α → Prop} {Q : β → Prop} {bs t : List Byte} {r q : Except DecodeError (α × List Byte)}

theorem error (e : DecodeError) : Reads P bs (.error e) := fun _ _ h => by cases h

theorem ok {a : α} (h : P a) (suffix : t <:+ bs) : Reads P bs (.ok (a, t)) := fun _ _ e => by
  cases e
  exact ⟨h, suffix⟩

theorem here {a : α} (h : P a) : Reads P bs (.ok (a, bs)) := ok h List.suffix_rfl

theorem cons (h : Reads P bs r) (b : Byte) : Reads P (b :: bs) r := fun a rest e =>
  ⟨(h a rest e).1, (h a rest e).2.trans (List.suffix_cons b bs)⟩

theorem ite {c : Prop} [Decidable c] (h : c → Reads P bs r) (k : ¬ c → Reads P bs q) :
    Reads P bs (if c then r else q) := by
  split
  · next holds => exact h holds
  · next fails => exact k fails

/-- The reader of a part, followed by what makes the whole of it. -/
theorem map (h : Reads P bs r) {f : α × List Byte → β × List Byte}
    (hf : ∀ a rest, P a → Q (f (a, rest)).1 ∧ (f (a, rest)).2 = rest) : Reads Q bs (r.map f) := by
  intro b rest e
  match r, h, e with
  | .ok (a, t), h, e =>
    obtain ⟨ha, suffix⟩ := h a t rfl
    obtain ⟨hb, same⟩ := hf a t ha
    have e : f (a, t) = (b, rest) := Except.ok.inj e
    obtain rfl : rest = t := by rwa [e] at same
    exact ⟨by rwa [e] at hb, suffix⟩

end Reads

/-! ## Prefixes -/

/-- What the decoder can note of prefixes in code of this size: a segment that an override can name, and REX bits
only where REX exists. -/
def Prefixes.Legal (c : CodeSize) (p : Prefixes) : Prop :=
  segOverrideWf p.seg = true ∧ RexFits c p.rexR p.rexX p.rexB

theorem Prefixes.Legal.rexR {c : CodeSize} {p : Prefixes} (h : p.Legal c) : c.hasRex = true ∨ p.rexR = false :=
  h.2.imp_right fun ⟨r, _, _⟩ => r

theorem Prefixes.Legal.rexB {c : CodeSize} {p : Prefixes} (h : p.Legal c) : c.hasRex = true ∨ p.rexB = false :=
  h.2.imp_right fun ⟨_, _, b⟩ => b

theorem segOverrideWf_segOfPrefix (b : Byte) : segOverrideWf (segOfPrefix b) = true := by
  unfold segOfPrefix
  repeat' split
  all_goals rfl

theorem prefixes_legal (c : CodeSize) (bs : List Byte) (p : Prefixes) (legal : p.Legal c) :
    (prefixes c p bs).1.Legal c ∧ (prefixes c p bs).2 <:+ bs := by
  induction bs generalizing p with
  | nil => exact ⟨legal, List.suffix_rfl⟩
  | cons b t ih =>
    have next : ∀ q : Prefixes, q.Legal c →
        (prefixes c q t).1.Legal c ∧ (prefixes c q t).2 <:+ b :: t := fun q hq =>
      ⟨(ih q hq).1, (ih q hq).2.trans (List.suffix_cons b t)⟩
    have noRex : RexFits c false false false := .inr ⟨rfl, rfl, rfl⟩
    rw [prefixes]
    split_ifs with _ _ _ _ _ rex
    iterate 4 exact next _ ⟨legal.1, noRex⟩
    · exact next _ ⟨segOverrideWf_segOfPrefix b, noRex⟩
    · exact next _ ⟨legal.1, .inl (Bool.and_eq_true_iff.1 rex).1⟩
    · exact ⟨legal, List.suffix_rfl⟩

/-! ## Registers -/

theorem Reg.hi_ofCode : ∀ (hi : Bool) (lo : BitVec 3), (Reg.ofCode hi lo).hi = hi := by decide

theorem Reg.isSibCode_ofCode : ∀ (hi : Bool) (lo : BitVec 3), (Reg.ofCode hi lo).isSibCode = decide (lo = 4#3) := by
  decide

theorem Reg.isNoBaseCode_ofCode :
    ∀ (hi : Bool) (lo : BitVec 3), (Reg.ofCode hi lo).isNoBaseCode = decide (lo = 5#3) := by
  decide

theorem Base16.ofCode_eq_bp : ∀ lo : BitVec 3, Base16.ofCode lo = .bp ↔ lo = 6#3 := by decide

/-- In code without REX a register has a code of three bits. -/
theorem spelledIn_ofCode {c : CodeSize} {hi : Bool} (h : c.hasRex = true ∨ hi = false) (lo : BitVec 3) :
    Reg.spelledIn c (Reg.ofCode hi lo) = true := by
  rw [Reg.spelledIn_iff, Reg.hi_ofCode]
  exact h

theorem crField_high (p : Prefixes) (mb : Byte) : (crField p mb).getLsbD 3 = p.rexR := by
  have high : ∀ (b : Bool) (r : BitVec 3), (BitVec.ofBool b ++ r).getLsbD 3 = b := by decide
  exact high _ _

/-! ## Displacements and addressing forms -/

theorem reads_takeD32 (bs : List Byte) : Reads (fun _ => True) bs (takeD32 bs) := by
  match bs with
  | b0 :: b1 :: b2 :: b3 :: rest => exact .ok trivial ⟨[b0, b1, b2, b3], rfl⟩
  | [] | [_] | [_, _] | [_, _, _] => exact .error _

theorem reads_takeD16 (bs : List Byte) : Reads (fun _ => True) bs (takeD16 bs) := by
  match bs with
  | b0 :: b1 :: rest => exact .ok trivial ⟨[b0, b1], rfl⟩
  | [] | [_] => exact .error _

/-- The `mod` that announces no displacement. -/
theorem eq_zero_of_mod : ∀ {m : BitVec 2}, m ≠ 3#2 → m ≠ 1#2 → m ≠ 2#2 → m = 0#2 := by decide

theorem reads_takeDisp {m : BitVec 2} (hm : m ≠ 3#2) (bs : List Byte) :
    Reads (fun d => d = .none → m = 0#2) bs (takeDisp m bs) := by
  refine .ite (fun _ => ?_) fun h1 => .ite (fun _ => (reads_takeD32 bs).map fun d rest _ => ⟨nofun, rfl⟩) fun h2 => ?_
  · match bs with
    | b :: rest => exact .ok nofun (List.suffix_cons b rest)
    | [] => exact .error _
  · exact .here (fun _ => eq_zero_of_mod hm h1 h2)

theorem reads_takeDisp16 {m : BitVec 2} (hm : m ≠ 3#2) (bs : List Byte) :
    Reads (fun d => d = .none → m = 0#2) bs (takeDisp16 m bs) := by
  refine .ite (fun _ => ?_) fun h1 => .ite (fun _ => (reads_takeD16 bs).map fun d rest _ => ⟨nofun, rfl⟩) fun h2 => ?_
  · match bs with
    | b :: rest => exact .ok nofun (List.suffix_cons b rest)
    | [] => exact .error _
  · exact .here (fun _ => eq_zero_of_mod hm h1 h2)

/-- A displacement that its ModR/M byte announces fits the base, where the byte does not spell the form without one. -/
theorem Disp.fits_ofCode {d : Disp} {m : BitVec 2} {lo : BitVec 3} (announced : d = .none → m = 0#2)
    (based : ¬ (m = 0#2 ∧ lo = 5#3)) (hi : Bool) : d.fits (Reg.ofCode hi lo) = true := by
  cases d with
  | none =>
    have : lo ≠ 5#3 := fun e => based ⟨announced rfl, e⟩
    simp [Disp.fits, Reg.isNoBaseCode_ofCode, this]
  | d8 | d32 => rfl

theorem Disp16.fits_ofCode {d : Disp16} {m : BitVec 2} {lo : BitVec 3} (announced : d = .none → m = 0#2)
    (based : ¬ (m = 0#2 ∧ lo = 6#3)) : d.fits (Base16.ofCode lo) = true := by
  cases d with
  | none =>
    have : lo ≠ 6#3 := fun e => based ⟨announced rfl, e⟩
    simp [Disp16.fits, Base16.ofCode_eq_bp, this]
  | d8 | d16 => rfl

/-- An addressing form that the bytes after these prefixes can spell, with 16-bit addresses or without. -/
structure FormFits (is16 : Bool) (p : Prefixes) (f : AddrForm) : Prop where
  wf : f.wf = true
  size : f.is16 = is16
  rexX : f.rexX = true → p.rexX = true
  rexB : f.rexB = true → p.rexB = true

theorem reads_takeForm {mb : Byte} (hm : modOf mb ≠ 3#2) (p : Prefixes) (bs : List Byte) :
    Reads (FormFits false p) bs (takeForm p mb bs) := by
  refine .ite (fun _ => ?_) fun noSib => .ite (fun _ => ?_) fun based => ?_
  · match bs with
    | [] => exact .error _
    | sb :: rest =>
      refine .cons (.ite (fun _ => ?_) fun based => ?_) sb
      · exact (reads_takeD32 rest).map fun d _ _ =>
          ⟨⟨rfl, rfl, by simp [AddrForm.rexX, Reg.hi_ofCode], nofun⟩, rfl⟩
      · exact (reads_takeDisp hm rest).map fun d _ announced =>
          ⟨⟨Disp.fits_ofCode announced based _, rfl, by simp [AddrForm.rexX, Reg.hi_ofCode],
            by simp [AddrForm.rexB, Reg.hi_ofCode]⟩, rfl⟩
  · exact (reads_takeD32 bs).map fun d _ _ => ⟨⟨rfl, rfl, nofun, nofun⟩, rfl⟩
  · exact (reads_takeDisp hm bs).map fun d _ announced =>
      ⟨⟨by simp [AddrForm.wf, Reg.isSibCode_ofCode, noSib, Disp.fits_ofCode announced based], rfl, nofun,
        by simp [AddrForm.rexB, Reg.hi_ofCode]⟩, rfl⟩

theorem reads_takeForm16 {mb : Byte} (hm : modOf mb ≠ 3#2) (p : Prefixes) (bs : List Byte) :
    Reads (FormFits true p) bs (takeForm16 mb bs) := by
  refine .ite (fun _ => ?_) fun based => ?_
  · exact (reads_takeD16 bs).map fun d _ _ => ⟨⟨rfl, rfl, nofun, nofun⟩, rfl⟩
  · exact (reads_takeDisp16 hm bs).map fun d _ announced =>
      ⟨⟨Disp16.fits_ofCode announced based, rfl, nofun, nofun⟩, rfl⟩

/-! ## Operands -/

section
variable {c : CodeSize} {p : Prefixes} (legal : p.Legal c)
include legal

theorem FormFits.operand {f : AddrForm} (h : FormFits (c.addr16 p.addrPrefix) p f) :
    MemOperand.wf ⟨p.seg, p.addrPrefix, f⟩ = true ∧ MemOperand.spelledIn c ⟨p.seg, p.addrPrefix, f⟩ = true := by
  obtain ⟨segment, rex⟩ := legal
  refine ⟨(MemOperand.wf_iff _).2 ⟨segment, h.wf⟩, (MemOperand.spelledIn_iff c _).2 ⟨h.size, ?_⟩⟩
  refine rex.imp_right fun ⟨_, x, b⟩ => ⟨?_, ?_⟩
  · exact Bool.eq_false_iff.2 fun e => by simp [h.rexX e] at x
  · exact Bool.eq_false_iff.2 fun e => by simp [h.rexB e] at b

theorem reads_takeMem {mb : Byte} (hm : modOf mb ≠ 3#2) (bs : List Byte) :
    Reads (fun m => m.wf = true ∧ MemOperand.spelledIn c m = true) bs (takeMem c p mb bs) := by
  have form : Reads (FormFits (c.addr16 p.addrPrefix) p) bs
      (if c.addr16 p.addrPrefix then takeForm16 mb bs else takeForm p mb bs) := by
    split
    · next size => exact size ▸ reads_takeForm16 hm p bs
    · next size => exact Bool.eq_false_iff.2 size ▸ reads_takeForm hm p bs
  exact form.map fun f _ fits => ⟨fits.operand legal, rfl⟩

theorem reads_takeRm (mb : Byte) (bs : List Byte) :
    Reads (fun o => o.wf = true ∧ RmOperand.spelledIn c o = true) bs (takeRm c p mb bs) := by
  refine .ite (fun _ => ?_) fun hm => (reads_takeMem legal hm bs).map fun m _ h => ⟨h, rfl⟩
  exact .here ⟨rfl, spelledIn_ofCode legal.rexB _⟩

theorem spelledIn_regField (mb : Byte) : Reg.spelledIn c (regField p mb) = true :=
  spelledIn_ofCode legal.rexR _

/-! ## Opcodes -/

/-- In code without REX a control register has a number below 8. -/
theorem spelledIn_crField (mb : Byte) : (c.hasRex || !(crField p mb).getLsbD 3) = true := by
  rw [crField_high]
  simpa using legal.rexR

end

/-- The instruction is well formed and can be spelled in code of this size. -/
def Spelled (c : CodeSize) (i : Instr) : Prop := i.wf = true ∧ spelledIn c i = true

section
variable {c : CodeSize} {p : Prefixes} (legal : p.Legal c)
include legal

theorem reads_decode0F01 (bs : List Byte) : Reads (Spelled c) bs (decode0F01 c p bs) := by
  match bs with
  | [] => exact .error _
  | mb :: t =>
    refine .cons ?_ mb
    exact .ite (fun _ => .here ⟨rfl, rfl⟩) fun _ => .ite (fun _ => .here ⟨rfl, rfl⟩) fun _ =>
      .ite (fun _ => .here ⟨rfl, rfl⟩) fun _ => .ite (fun _ => .here ⟨rfl, rfl⟩) fun _ =>
      .ite (fun _ => .here ⟨rfl, rfl⟩) fun _ =>
      .ite (fun _ => (reads_takeRm legal mb t).map fun o _ h => ⟨h, rfl⟩) fun _ => .error _

theorem reads_decode0FC7 (bs : List Byte) : Reads (Spelled c) bs (decode0FC7 c p bs) := by
  match bs with
  | [] => exact .error _
  | mb :: t =>
    refine .cons (.ite (fun _ => .error _) fun hm => ?_) mb
    have operand := reads_takeMem legal hm t
    refine .ite (fun _ => ?_) fun _ => .ite (fun _ => .ite (fun _ => ?_) fun _ => .error _) fun _ => .error _
    · split
      · exact operand.map fun m _ h => ⟨h, rfl⟩
      · exact .error _
      · exact operand.map fun m _ h => ⟨h, rfl⟩
      · exact operand.map fun m _ h => ⟨h, rfl⟩
    · exact operand.map fun m _ h => ⟨h, rfl⟩

theorem reads_decodeTwo (op : Byte) (bs : List Byte) : Reads (Spelled c) bs (decodeTwo c p op bs) := by
  match bs with
  | [] => exact .error _
  | mb :: t =>
    have moves : ((c.hasRex || !(crField p mb).getLsbD 3) && Reg.spelledIn c (Reg.ofCode p.rexB (rmOf mb))) = true :=
      Bool.and_eq_true_iff.2 ⟨spelledIn_crField legal mb, spelledIn_ofCode legal.rexB _⟩
    have operands : ∀ o : RmOperand, RmOperand.spelledIn c o = true →
        (RmOperand.spelledIn c o && Reg.spelledIn c (regField p mb)) = true := fun o h =>
      Bool.and_eq_true_iff.2 ⟨h, spelledIn_regField legal mb⟩
    refine .cons ?_ mb
    refine .ite (fun _ => .here ⟨rfl, moves⟩) fun _ =>
      .ite (fun _ => .here ⟨rfl, moves⟩) fun _ => .ite (fun _ => ?_) fun _ => ?_
    · exact .ite (fun _ => (reads_takeRm legal mb t).map fun o _ ⟨wf, h⟩ => ⟨⟨wf, operands o h⟩, rfl⟩) fun _ => .error _
    · exact .ite (fun _ => (reads_takeRm legal mb t).map fun o _ ⟨wf, h⟩ => ⟨⟨wf, operands o h⟩, rfl⟩) fun _ => .error _

theorem reads_decode0F (bs : List Byte) : Reads (Spelled c) bs (decode0F c p bs) := by
  match bs with
  | [] => exact .error _
  | op :: t =>
    refine .cons ?_ op
    exact .ite (fun _ => reads_decode0F01 legal t) fun _ => .ite (fun _ => .here ⟨rfl, rfl⟩) fun _ =>
      .ite (fun _ => .here ⟨rfl, rfl⟩) fun _ =>
      .ite (fun _ => .ite (fun _ => .here ⟨rfl, rfl⟩) fun _ => .error _) fun _ =>
      .ite (fun _ => .here ⟨rfl, rfl⟩) fun _ => .ite (fun _ => reads_decode0FC7 legal t) fun _ =>
      .ite (fun _ => reads_decodeTwo legal op t) fun _ => .error _

/-- The opcode byte stands before all that is left. -/
theorem reads_decodeOpcode (b : Byte) (t : List Byte) : Reads (Spelled c) t (decodeOpcode c p (b :: t)) :=
  .ite (fun _ => reads_decode0F legal t) fun _ =>
    .ite (fun _ => .here ⟨rfl, rfl⟩) fun _ =>
    .ite (fun _ => .here ⟨rfl, rfl⟩) fun _ => .error _

end

/-- Settles O3: the prefixes that the decoder notes are legal, and every reader after them takes from the front. -/
theorem decodedIsWellFormed : Obligations.DecodedIsWellFormed := by
  unfold Obligations.DecodedIsWellFormed
  intro c bs i rest h
  obtain ⟨legal, front, split⟩ := prefixes_legal c bs {} ⟨rfl, .inr ⟨rfl, rfl, rfl⟩⟩
  have h : decodeOpcode c (prefixes c {} bs).1 (prefixes c {} bs).2 = .ok (i, rest) := h
  match opcode : (prefixes c {} bs).2 with
  | [] => rw [opcode] at h; cases h
  | b :: t =>
    rw [opcode] at h split
    obtain ⟨⟨wf, spelled⟩, more, tail⟩ := reads_decodeOpcode legal b t i rest h
    exact ⟨wf, spelled, front ++ b :: more, by simp, by rw [← split, ← tail]; simp⟩

end Sys2Proof
end

section
/-! PROOFS. When VMX instructions are not available (30_encoding.md R112, 41_vmcs_maintenance.md R150,
42_vm_entry_exit.md R194; D4, D20), and MOV from a control register (30_encoding.md R120; log 36). -/

namespace Sys2Proof.Machine

/-! ## VMX instructions where they are not available -/

theorem inVmx_of_outside {s : State} (h : s.vmxMode = .outside) : inVmx s = false := by simp [inVmx, h]

theorem vmxPrologue_unavailable {s : State} (h : inVmx s = false ∨ modeOk s = false) (c : Trigger)
    (body : State → Result) : vmxPrologue c s body = raise .invalidOpcode s := by
  rcases h with h | h <;> simp [vmxPrologue, h]

theorem vmxPrologue_unprivileged {s : State} (root : s.vmxMode = .root) (mode : modeOk s = true) (user : cpl s ≠ 0)
    (c : Trigger) (body : State → Result) : vmxPrologue c s body = raise .generalProtection s := by
  simp only [vmxPrologue, inVmx_of_root root, mode, root, Bool.not_true, Bool.or_self, Bool.false_eq_true, reduceCtorEq,
    if_false, if_pos user]

theorem exec_vmcall_unavailable {s : State} (h : inVmx s = false ∨ modeOk s = false) :
    exec .vmcall s = raise .invalidOpcode s := by
  rcases h with h | h <;> simp [exec, execVmcall, h]

theorem exec_vmcall_unprivileged {s : State} (root : s.vmxMode = .root) (mode : modeOk s = true) (user : cpl s ≠ 0) :
    exec .vmcall s = raise .generalProtection s := by
  simp only [exec, execVmcall, inVmx_of_root root, mode, root, Bool.not_true, Bool.or_self, Bool.false_eq_true,
    reduceCtorEq, if_false, if_pos user]

theorem exec_vmxon_wrongMode {s : State} (mode : modeOk s = false) (m : MemOperand) :
    exec (.vmxon m) s = raise .invalidOpcode s := by
  simp [exec, execVmxon, mode]

/-- VMXON is #GP above CPL 0 in VMX root operation and outside VMX operation (40_vmx_enter_leave.md R134 lines 3a
and 4). -/
theorem exec_vmxon_unprivileged {s : State} (host : s.vmxMode = .root ∨ s.vmxMode = .outside) (mode : modeOk s = true)
    (vmxe : s.cr4.getLsbD 13 = true) (user : cpl s ≠ 0) (m : MemOperand) :
    exec (.vmxon m) s = raise .generalProtection s := by
  rcases host with h | h <;>
    simp only [exec, execVmxon, vmxonOutside, vmxe, mode, h, Bool.not_true, Bool.or_self, Bool.false_eq_true, if_false,
      if_pos user]

/-- VMCALL and VMXON have their own checks, the other eight VMX instructions have `VMX_PROLOGUE`. -/
theorem isVmx_cases {i : Instr} (vmx : isVmx i = true) :
    i = .vmcall ∨ (∃ m, i = .vmxon m) ∨ ∃ body, ∀ s, exec i s = vmxPrologue (triggerOf i s) s body := by
  cases i with
  | vmcall => exact .inl rfl
  | vmxon m => exact .inr (.inl ⟨m, rfl⟩)
  | vmlaunch | vmresume | vmxoff | vmptrld | vmclear | vmptrst | vmread | vmwrite =>
    exact .inr (.inr ⟨_, fun _ => rfl⟩)
  | _ => cases vmx

theorem exec_vmx_outside {i : Instr} {s : State} (vmx : isVmx i = true) (outside : s.vmxMode = .outside)
    (other : ∀ m, i ≠ .vmxon m) : exec i s = raise .invalidOpcode s := by
  have out := inVmx_of_outside outside
  rcases isVmx_cases vmx with rfl | ⟨m, is⟩ | ⟨body, same⟩
  · exact exec_vmcall_unavailable (.inl out)
  · exact absurd is (other m)
  · exact (same s).trans (vmxPrologue_unavailable (.inl out) _ _)

theorem exec_vmx_wrongMode {i : Instr} {s : State} (vmx : isVmx i = true) (mode : modeOk s = false) :
    exec i s = raise .invalidOpcode s := by
  rcases isVmx_cases vmx with rfl | ⟨m, rfl⟩ | ⟨body, same⟩
  · exact exec_vmcall_unavailable (.inr mode)
  · exact exec_vmxon_wrongMode mode m
  · exact (same s).trans (vmxPrologue_unavailable (.inr mode) _ _)

theorem exec_vmx_unprivileged {i : Instr} {s : State} (vmx : isVmx i = true) (root : s.vmxMode = .root)
    (mode : modeOk s = true) (vmxe : s.cr4.getLsbD 13 = true) (user : cpl s ≠ 0) :
    exec i s = raise .generalProtection s := by
  rcases isVmx_cases vmx with rfl | ⟨m, rfl⟩ | ⟨body, same⟩
  · exact exec_vmcall_unprivileged root mode user
  · exact exec_vmxon_unprivileged (.inl root) mode vmxe user m
  · exact (same s).trans (vmxPrologue_unprivileged root mode user _ _)

/-- Settles O26: by the checks of `VMX_PROLOGUE`, of VMCALL and of VMXON. -/
theorem vmxUnavailable : Obligations.VmxUnavailable := by
  unfold Obligations.VmxUnavailable
  intro i s vmx
  exact ⟨exec_vmx_outside vmx, exec_vmx_wrongMode vmx, exec_vmx_unprivileged vmx, fun outside mode vmxe user ⟨m, is⟩ =>
    is ▸ exec_vmxon_unprivileged (.inr outside) mode vmxe user m⟩

/-! ## MOV from a control register -/

/-- The value that a control register's number names (log 36). -/
theorem readCr_of_named {s : State} {cr : BitVec 4} {v : Word}
    (h : (cr = 0#4 ∧ v = s.cr0) ∨ (cr = 2#4 ∧ v = s.cr2) ∨ (cr = 3#4 ∧ v = s.cr3) ∨ (cr = 4#4 ∧ v = s.cr4)
      ∨ (cr = 8#4 ∧ mode64 s = true ∧ v = s.cr8)) : readCr s cr = some v := by
  rcases h with ⟨rfl, rfl⟩ | ⟨rfl, rfl⟩ | ⟨rfl, rfl⟩ | ⟨rfl, rfl⟩ | ⟨rfl, mode, rfl⟩
  case inr.inr.inr.inr => exact if_pos mode
  all_goals rfl

theorem readCr_of_unnamed {s : State} {cr : BitVec 4}
    (h : cr ∉ [0#4, 2#4, 3#4, 4#4, 8#4] ∨ (cr = 8#4 ∧ mode64 s = false)) : readCr s cr = none := by
  rcases h with other | ⟨rfl, mode⟩
  · have unnamed : ∀ n ∈ [0#4, 2#4, 3#4, 4#4, 8#4], cr.toNat ≠ n.toNat := fun n hn e =>
      other (BitVec.eq_of_toNat_eq e ▸ hn)
    simp only [List.forall_mem_cons] at unnamed
    obtain ⟨h0, h2, h3, h4, h8, -⟩ := unnamed
    unfold readCr
    split
    · next e => exact absurd e h0
    · next e => exact absurd e h2
    · next e => exact absurd e h3
    · next e => exact absurd e h4
    · next e => exact absurd e h8
    · rfl
  · exact if_neg (by simp [mode])

theorem exec_movFromCr_of_value {s : State} {dst : Reg} {cr : BitVec 4} {v : Word}
    (runs : NotExiting (.movFromCr dst cr) s) (privilege : cpl s = 0) (value : readCr s cr = some v) :
    exec (.movFromCr dst cr) s = .next (complete (setGpr dst (truncTo (modeBits s) v) s)) := by
  simp only [exec, execMovFromCr, value, privileged_ready _ runs privilege]

theorem exec_movFromCr_of_none {s : State} {dst : Reg} {cr : BitVec 4} (none : readCr s cr = none) :
    exec (.movFromCr dst cr) s = raise .invalidOpcode s := by
  simp only [exec, execMovFromCr, none]

/-- Settles O50: by whether the number names a control register. -/
theorem movFromCr : Obligations.MovFromCr := by
  unfold Obligations.MovFromCr
  intro s dst cr runs privilege
  exact ⟨fun v named => exec_movFromCr_of_value runs privilege (readCr_of_named named), fun unnamed =>
    exec_movFromCr_of_none (readCr_of_unnamed unnamed)⟩

end Sys2Proof.Machine
end

section
/-! PROOFS. Entering and leaving VMX operation: VMXON and VMXOFF (40_vmx_enter_leave.md R130 to R142). -/

namespace Sys2Proof.Machine

/-! ## What VMfail leaves -/

theorem reportFail_of_unreported {s : State} (unreported : s.cfg.reportInRflags = false) : reportFail s = s := by
  simp [reportFail, unreported]

theorem reportFail_of_current {s : State} {p : Word} (reported : s.cfg.reportInRflags = true) (root : s.vmxMode = .root)
    (current : s.currentVmcs = some p) : ∃ x, reportFail s = { s with
      rflags := flagsFailValid s.rflags
      vmcss := Table.insert p.toNat (setField s.cfg .vmInstructionError x (vmcsAt s p)) s.vmcss } :=
  ⟨_, by rw [reportFail, if_pos reported, root, current]⟩

theorem reportFail_of_noCurrent {s : State} (reported : s.cfg.reportInRflags = true)
    (other : s.vmxMode ≠ .root ∨ s.currentVmcs = none) :
    reportFail s = { s with rflags := flagsFailInvalid s.rflags } := by
  rw [reportFail, if_pos reported]
  split
  · next root current => simp [root, current] at other
  · rfl

/-- VMfail leaves the report, by whether there is one and where it goes (60_exceptions.md R234; G2). -/
theorem vmFails_vmFail (s : State) : VmFails s (vmFail s) := by
  have fails : vmFail s = .next { complete (reportFail s) with failed := true } := rfl
  cases reported : s.cfg.reportInRflags with
  | false =>
    rw [reportFail_of_unreported reported] at fails
    exact ⟨_, _, fails, fun _ => ⟨rfl, rfl⟩, by simp [reported], by simp [reported]⟩
  | true =>
    by_cases other : s.vmxMode ≠ .root ∨ s.currentVmcs = none
    · rw [reportFail_of_noCurrent reported other] at fails
      exact ⟨_, _, fails, by simp [reported], fun _ p root current => by simp [root, current] at other,
        fun _ _ => ⟨rfl, rfl⟩⟩
    · obtain ⟨root, hasCurrent⟩ := not_or.1 other
      obtain ⟨p, current⟩ := Option.ne_none_iff_exists'.1 hasCurrent
      obtain ⟨x, report⟩ := reportFail_of_current reported (not_not.1 root) current
      rw [report] at fails
      refine ⟨_, _, fails, by simp [reported], fun _ q _ is => ?_, fun _ h => absurd h other⟩
      obtain rfl := Option.some.inj (current.symm.trans is)
      exact ⟨rfl, x, rfl⟩

/-! ## VMXON, check by check -/

theorem vmxonEnabled_iff {s : State} : vmxonEnabled s = true ↔ s.featureControl.getLsbD 0 = true
    ∧ (if s.smxOp then s.featureControl.getLsbD 1 else s.featureControl.getLsbD 2) = true := by
  rw [vmxonEnabled, Bool.and_eq_true]

section
variable {s : State} {m : MemOperand}

theorem exec_vmxon_withoutVmxe (vmxe : s.cr4.getLsbD 13 = false) : exec (.vmxon m) s = raise .invalidOpcode s := by
  simp only [exec, execVmxon, vmxe, Bool.not_false, Bool.true_or, if_true]

theorem exec_vmxon_root (ready : RootReady s) (vmxe : s.cr4.getLsbD 13 = true) : exec (.vmxon m) s = vmFail s := by
  obtain ⟨root, mode, privilege⟩ := ready
  simp [exec, execVmxon, vmxe, mode, root, privilege]

theorem exec_vmxon_outside (vmxe : s.cr4.getLsbD 13 = true) (mode : modeOk s = true) (outside : s.vmxMode = .outside) :
    exec (.vmxon m) s = vmxonOutside m s := by
  simp [exec, execVmxon, vmxe, mode, outside]

/-- #GP wherever IA32_FEATURE_CONTROL does not enable VMXON, whatever the CPL (40_vmx_enter_leave.md R134 lines 4
to 7). -/
theorem vmxonOutside_notEnabled (notEnabled : vmxonEnabled s ≠ true) :
    vmxonOutside m s = raise .generalProtection s := by
  simp [vmxonOutside, notEnabled]

theorem vmxonOutside_unsupported (privilege : cpl s = 0) (enabled : vmxonEnabled s = true)
    (unsupported : ¬ VmxonSupported s) : vmxonOutside m s = vmxonFail s := by
  by_cases admitted : cr0Ok s.cfg s.cr0 = true ∧ cr4Ok s.cfg s.cr4 = true
  · obtain ⟨cr0, cr4⟩ := admitted
    have a20m : s.a20m = true := by simpa [cr0, cr4] using unsupported
    simp [vmxonOutside, privilege, enabled, cr0, cr4, a20m]
  · have refused : (!cr0Ok s.cfg s.cr0 || !cr4Ok s.cfg s.cr4) = true := by simpa [imp_iff_not_or] using admitted
    simp [vmxonOutside, privilege, enabled, refused]

theorem exec_vmxon_unsupported (ready : VmxonReady s) (unsupported : ¬ VmxonSupported s) :
    exec (.vmxon m) s = vmxonFail s := by
  obtain ⟨vmxe, mode, outside, privilege, enabled⟩ := ready
  rw [exec_vmxon_outside vmxe mode outside,
    vmxonOutside_unsupported privilege (vmxonEnabled_iff.2 enabled) unsupported]

theorem exec_vmxon_of_read {q : Word} (ready : VmxonReady s) (supported : VmxonSupported s)
    (read : readMem s m 8 = .ok q) : exec (.vmxon m) s = enterVmx q s := by
  obtain ⟨vmxe, mode, outside, privilege, enabled⟩ := ready
  obtain ⟨cr0, cr4, a20m⟩ := supported
  rw [exec_vmxon_outside vmxe mode outside]
  simp [vmxonOutside, privilege, vmxonEnabled_iff.2 enabled, cr0, cr4, a20m, read]

end

theorem enterVmx_ok {s : State} {q : Word} (valid : validPtr s.cfg q = true)
    (memory : regionInMemory s.cfg q s.cfg.vmxonSize = true) (region : vmxonRegionOk s q = true) :
    enterVmx q s = vmSucceed { s with vmxMode := .root, vmxonPtr := q, currentVmcs := none } := by
  simp [enterVmx, valid, memory, region]

theorem enterVmx_bad {s : State} {q : Word} (bad : validPtr s.cfg q = false
    ∨ (regionInMemory s.cfg q s.cfg.vmxonSize = true ∧ vmxonRegionOk s q = false)) : enterVmx q s = vmFail s := by
  rcases bad with invalid | ⟨memory, region⟩
  · simp [enterVmx, invalid]
  · simp [enterVmx, memory, region]

/-- Settles O21: with every check passed, VMXON is `enterVmx` of the pointer it read. -/
theorem vmxonEnters : Obligations.VmxonEnters := by
  unfold Obligations.VmxonEnters
  intro s m q ready supported read valid memory region
  rw [exec_vmxon_of_read ready supported read, enterVmx_ok valid memory region]
  rfl

/-- Settles O22: each of the four conditions fails one check, and the checks before it pass or raise the same. -/
theorem vmxonFaults : Obligations.VmxonFaults := by
  unfold Obligations.VmxonFaults
  intro s m
  refine ⟨exec_vmxon_withoutVmxe, fun vmxe mode outside => ?_⟩
  have faults (h : vmxonEnabled s ≠ true) : exec (.vmxon m) s = raise .generalProtection s := by
    rw [exec_vmxon_outside vmxe mode outside, vmxonOutside_notEnabled h]
  simp only [ne_eq, vmxonEnabled_iff] at faults
  refine ⟨fun lock => faults ?_, fun smx enable => faults ?_, fun smx enable => faults ?_⟩
  · simp only [lock, Bool.false_eq_true, false_and, not_false_eq_true]
  · simp only [smx, enable, if_true, Bool.false_eq_true, and_false, not_false_eq_true]
  · simp only [smx, enable, if_false, Bool.false_eq_true, and_false, not_false_eq_true]

/-- Settles O23: CR0, CR4 and A20M mode are checked once the other conditions hold, and before the operand is read. -/
theorem vmxonFailsUnsupported : Obligations.VmxonFailsUnsupported := by
  unfold Obligations.VmxonFailsUnsupported
  intro s m ready unsupported
  rw [exec_vmxon_unsupported ready unsupported]
  refine ⟨fun kind => ?_, fun kind => ?_⟩
  · rw [vmxonFail, kind, raise_eq]
  · rw [vmxonFail, kind]
    exact vmFails_vmFail s

/-- Settles O24: both ways end in VMfail. -/
theorem vmxonVmfails : Obligations.VmxonVmfails := by
  unfold Obligations.VmxonVmfails
  intro s m
  refine ⟨fun ready vmxe => ?_, fun q ready supported read bad => ?_⟩
  · rw [exec_vmxon_root ready vmxe]
    exact vmFails_vmFail s
  · rw [exec_vmxon_of_read ready supported read, enterVmx_bad bad]
    exact vmFails_vmFail s

/-! ## VMXOFF -/

theorem exec_vmxoff_ready {s : State} (ready : RootReady s) : exec .vmxoff s = vmSucceed { s with
    vmxMode := .outside
    vmcss := forgetActive (s.draws + 1) s.active s.vmcss } :=
  vmxPrologue_ready
    (fun s => vmSucceed { s with vmxMode := .outside, vmcss := forgetActive (s.draws + 1) s.active s.vmcss }) ready

/-- Settles O25: VMXOFF forgets the active VMCSs, and `vmcsAt_forgetActive` says what that leaves of each. -/
theorem vmxoffLeaves : Obligations.VmxoffLeaves := by
  unfold Obligations.VmxoffLeaves
  intro s ready
  refine ⟨_, exec_vmxoff_ready ready, fun p active => ?_, fun p inactive => ?_⟩
  · rw [vmcsAt_forgetActive, if_pos active]
    exact ⟨rfl, rfl⟩
  · rw [vmcsAt_forgetActive, if_neg inactive]

end Sys2Proof.Machine
end

section
/-! PROOFS. VMCS maintenance: VMPTRLD, VMPTRST, VMCLEAR, VMREAD and VMWRITE (41_vmcs_maintenance.md R151 to R171). -/

namespace Sys2Proof.Machine

/-! ## What a store leaves -/

theorem find?_forgetTouched (cfg : Config) (e : Nat) (l : List Nat) (t : List (Nat × Vmcs)) (q : Word) :
    Table.find? q.toNat (forgetTouched cfg e l t)
      = (Table.find? q.toNat t).map fun v => if l.any (inVmcsData cfg q) then undefinedVmcs e else v := by
  rw [forgetTouched, Table.find?_mapVal, BitVec.ofNat_toNat, BitVec.setWidth_eq]

theorem vmcsAt_forgetTouched_of_untouched (e : Nat) {s : State} {l : List Nat} {q : Word}
    (untouched : l.any (inVmcsData s.cfg q) = false) :
    vmcsAt { s with vmcss := forgetTouched s.cfg e l s.vmcss } q = vmcsAt s q := by
  simp [vmcsAt, find?_forgetTouched, untouched]

/-- A VMCS that the table does not list is undefined already, and keeps its epoch (log 24). -/
theorem vmcsAt_forgetTouched_of_touched (e : Nat) {s : State} {l : List Nat} {q : Word}
    (touched : l.any (inVmcsData s.cfg q) = true) :
    ∃ d, vmcsAt { s with vmcss := forgetTouched s.cfg e l s.vmcss } q = undefinedVmcs d := by
  simp only [vmcsAt, find?_forgetTouched, touched, if_true]
  cases Table.find? q.toNat s.vmcss with
  | none => exact ⟨0, rfl⟩
  | some v => exact ⟨e, rfl⟩

theorem vmcssAfterStore_forgetTouched (as : List Nat) (s : State) (e : Nat) :
    VmcssAfterStore as s (forgetTouched s.cfg e (as.filter (writable s.cfg)) s.vmcss) where
  untouched apart := forgetTouched_of_untouched fun a ha => apart a (List.mem_filter.1 ha).1
  kept q apart := vmcsAt_forgetTouched_of_untouched e <| List.any_eq_false.2 fun a ha => by
    obtain ⟨listed, changes⟩ := List.mem_filter.1 ha
    simp [apart a listed changes]
  undefined q touches := by
    obtain ⟨a, listed, changes, data⟩ := touches
    obtain ⟨d, after⟩ := vmcsAt_forgetTouched_of_touched (s := s) e
      (List.any_eq_true.2 ⟨a, List.mem_filter.2 ⟨listed, changes⟩, data⟩)
    rw [after]
    exact ⟨rfl, rfl⟩

/-- The bytes of an operand within a page are apart, so that each reads back. -/
theorem stored_storeAt {s : State} {as : List Nat} {lin : Word} {n : Nat}
    (addrs : physAddrs s .write n lin = .ok as) (short : n ≤ 4096) (v : Word) :
    Stored as v s (storeAt as (leBytes n v.toNat) s) := by
  refine ⟨fun k a at_k changes => ?_, fun a kept => storeAt_read_of_not_mem kept⟩
  have k_lt : k < n := physAddrs_length addrs ▸ (List.getElem?_eq_some_iff.1 at_k).1
  exact storeBytes_read_zip (physAddrs_nodup addrs short) _ _ at_k (leBytes_getElem? _ k_lt) changes

theorem writeMem_of_storable {s : State} {m : MemOperand} {n : Nat} {as : List Nat} (storable : Storable s m n as)
    (v : Word) : writeMem s m n v = .ok (storeAt as (leBytes n v.toNat) s) := by
  obtain ⟨usable, addrs, free⟩ := storable
  have free : as.any (processorOwned s) = false := by simpa using free
  simp [writeMem, memWrite, usable, addrs, free]

/-! ## The operand size -/

theorem eight_mul_operandBytes (s : State) : 8 * operandBytes s = operandBits s := by
  rw [← operandBits_div]
  unfold operandBits
  split <;> split <;> rfl

theorem operandBytes_le (s : State) : operandBytes s ≤ 8 := by
  rw [← operandBits_div]
  unfold operandBits
  split <;> split <;> decide

/-! ## The instructions, by what their operands give -/

theorem offMemory_of_inMemory {s : State} {p : Word} (memory : regionInMemory s.cfg p (vmcsSize s.cfg) = true) :
    offMemory s p = false := by
  simp [offMemory, memory]

theorem offMemory_of_bad {s : State} {p : Word} (bad : validPtr s.cfg p = false ∨ p = s.vmxonPtr) :
    offMemory s p = false := by
  rcases bad with invalid | vmxon
  · simp [offMemory, invalid]
  · simp [offMemory, vmxon]

theorem loadable_iff {s : State} {p : Word} : loadable s p = true ↔ validPtr s.cfg p = true ∧ p ≠ s.vmxonPtr
    ∧ headerRevision s.mem p = vmcsRevision s.cfg ∧ (headerShadow s.mem p = true → s.cfg.shadowVmcs = true) := by
  simp [loadable, imp_iff_not_or, and_assoc]

section
variable {s t : State} {m : MemOperand} {p : Word} (ready : RootReady s)
include ready

theorem exec_vmptrld_of_unloadable (read : readMem s m 8 = .ok p) (memory : offMemory s p = false)
    (bad : loadable s p ≠ true) : exec (.vmptrld m) s = vmFail s := by
  simp [exec, execVmptrld, vmxPrologue_ready _ ready, read, memory, bad]

theorem exec_vmclear_of_bad (read : readMem s m 8 = .ok p) (bad : validPtr s.cfg p = false ∨ p = s.vmxonPtr) :
    exec (.vmclear m) s = vmFail s := by
  have refused : (validPtr s.cfg p && decide (p ≠ s.vmxonPtr)) = false := by
    rcases bad with invalid | vmxon
    · simp [invalid]
    · simp [vmxon]
  simp only [exec, execVmclear, vmxPrologue_ready _ ready, read, offMemory_of_bad bad, refused, Bool.false_eq_true,
    if_false]

theorem exec_vmptrst_of_write (write : writeMem s m 8 (currentPtrValue s) = .ok t) :
    exec (.vmptrst m) s = vmSucceed t := by
  simp only [exec, execVmptrst, vmxPrologue_ready _ ready, write]

variable {r : Reg} {o : RmOperand} {f : FieldAccess}

theorem exec_vmread_of_write (current : s.currentVmcs = some p) (selected : selectField s r = some f)
    (write : writeRm s o (operandBytes s) (readAccess s p f) = .ok t) : exec (.vmread o r) s = vmSucceed t := by
  simp only [exec, execVmread, vmxPrologue_ready _ ready, current, selected, write]

theorem exec_vmread_of_none (missing : s.currentVmcs = none ∨ selectField s r = none) :
    exec (.vmread o r) s = vmFail s := by
  simp only [exec, execVmread, vmxPrologue_ready _ ready]
  split
  · rfl
  · rfl
  · next current selected => simp [current, selected] at missing

theorem exec_vmwrite_of_read {x : Word} (current : s.currentVmcs = some p) (selected : selectField s r = some f)
    (admitted : isExitInfo f.field = true → s.cfg.exitInfoWritable = true)
    (read : readRm s o (operandBytes s) = .ok x) : exec (.vmwrite r o) s
      = vmSucceed (putVmcs p (setField s.cfg f.field (writeAccess s p f x) (vmcsAt s p)) s) := by
  have admitted : ¬(isExitInfo f.field && !s.cfg.exitInfoWritable) = true := by simpa using admitted
  simp only [exec, execVmwrite, vmxPrologue_ready _ ready, current, selected, if_neg admitted, read]

theorem exec_vmwrite_of_none (missing : s.currentVmcs = none ∨ selectField s r = none) :
    exec (.vmwrite r o) s = vmFail s := by
  simp only [exec, execVmwrite, vmxPrologue_ready _ ready]
  split
  · rfl
  · rfl
  · next current selected => simp [current, selected] at missing

/-- Without a current VMCS VMWRITE fails before it looks at the field. -/
theorem exec_vmwrite_of_readOnly (selected : selectField s r = some f) (exitInfo : isExitInfo f.field = true)
    (readOnly : s.cfg.exitInfoWritable = false) : exec (.vmwrite r o) s = vmFail s := by
  cases current : s.currentVmcs with
  | none => exact exec_vmwrite_of_none ready (.inl current)
  | some p => simp [exec, execVmwrite, vmxPrologue_ready _ ready, current, selected, exitInfo, readOnly]

end

/-! ## The statements on the current-VMCS pointer and the regions -/

/-- Settles O29: the eight bytes are those of the current-VMCS pointer or of its stand-in, stored as any operand is. -/
theorem vmptrstStores : Obligations.VmptrstStores := by
  unfold Obligations.VmptrstStores
  intro s m as ready storable
  have ⟨_, addrs, _⟩ := storable
  have after := stored_storeAt addrs (by decide) (currentPtrValue s)
  refine ⟨(storeAt as (leBytes 8 (currentPtrValue s).toNat) s).mem,
    forgetTouched s.cfg (s.draws + 1) (as.filter (writable s.cfg)) s.vmcss,
    exec_vmptrst_of_write ready (writeMem_of_storable storable _), fun p current => ?_, fun missing => ?_,
    vmcssAfterStore_forgetTouched as s (s.draws + 1)⟩
  · have value : currentPtrValue s = p := by simp [currentPtrValue, current]
    rwa [value] at after ⊢
  · have value : currentPtrValue s = 0xFFFFFFFFFFFFFFFF#64 := by simp [currentPtrValue, missing]
    rwa [value] at after ⊢

/-- Settles O30: by what `clearVmcs` does to the set of active VMCSs, to the table and, within the region's data, to
memory. -/
theorem vmclearClears : Obligations.VmclearClears := by
  unfold Obligations.VmclearClears
  intro s m p ready read valid other memory
  have cleared := exec_vmclear_of_read ready read valid other
  rw [offMemory_of_inMemory memory] at cleared
  have launch : (vmcsAt (clearVmcs p s) p).launch = .clear := by rw [vmcsAt_clearVmcs_self]; rfl
  have data : (vmcsAt (clearVmcs p s) p).data = (vmcsAt s p).data := by rw [vmcsAt_clearVmcs_self]; rfl
  refine ⟨(clearVmcs p s).mem, (clearVmcs p s).vmcss, deactivate p s.active, cleared,
    fun q => mem_deactivate p q s.active, launch, data,
    fun q distinct => vmcsAt_clearVmcs_of_ne distinct s, fun a outside => imageBytes_read ?_⟩
  simp only [inVmcsData, Bool.and_eq_false_iff, decide_eq_false_iff_not]
  omega

/-- Settles O27: the conditions say that the region is in memory and can be loaded. -/
theorem vmptrldLoads : Obligations.VmptrldLoads := by
  unfold Obligations.VmptrldLoads
  intro s m p ready read valid other memory revision shadow
  have loaded := exec_vmptrld_of_read ready read (loadable_iff.2 ⟨valid, other, revision, shadow⟩)
  rw [offMemory_of_inMemory memory] at loaded
  exact ⟨_, fun q => mem_activate p q s.active, loaded⟩

/-- Settles O28: each condition makes the region one that cannot be loaded or cleared, and none of them is the refusal
of a region outside memory. -/
theorem pointerFails : Obligations.PointerFails := by
  unfold Obligations.PointerFails
  intro s m p ready read
  refine ⟨fun bad => ?_, fun bad => ?_⟩
  · have unloadable : loadable s p ≠ true := fun ok => by
      obtain ⟨valid, other, revision, shadow⟩ := loadable_iff.1 ok
      rcases bad with invalid | vmxon | ⟨-, wrong | ⟨indicator, unsupported⟩⟩
      · simp [valid] at invalid
      · exact other vmxon
      · exact wrong revision
      · simp [shadow indicator] at unsupported
    have memory : offMemory s p = false := by
      rcases bad with invalid | vmxon | ⟨inMemory, -⟩
      · exact offMemory_of_bad (.inl invalid)
      · exact offMemory_of_bad (.inr vmxon)
      · exact offMemory_of_inMemory inMemory
    rw [exec_vmptrld_of_unloadable ready read memory unloadable]
    exact vmFails_vmFail s
  · rw [exec_vmclear_of_bad ready read bad]
    exact vmFails_vmFail s

/-! ## The statements on VMREAD and VMWRITE -/

/-- Settles O33: VMREAD stores what `readAccess` gives, as any operand is stored. -/
theorem vmreadMemory : Obligations.VmreadMemory := by
  unfold Obligations.VmreadMemory
  intro s m field p f as ready current selected storable
  rw [operandBits_div] at storable
  have short : operandBytes s ≤ 4096 := (operandBytes_le s).trans (by decide)
  have ⟨_, addrs, _⟩ := storable
  exact ⟨(storeAt as (leBytes (operandBytes s) (readAccess s p f).toNat) s).mem,
    forgetTouched s.cfg (s.draws + 1) (as.filter (writable s.cfg)) s.vmcss,
    exec_vmread_of_write (o := .mem m) ready current selected (writeMem_of_storable storable _),
    stored_storeAt addrs short (readAccess s p f), vmcssAfterStore_forgetTouched as s (s.draws + 1)⟩

/-- Settles O32: a register takes what `readAccess` gives, cut to the operand size. -/
theorem vmreadRegister : Obligations.VmreadRegister := by
  unfold Obligations.VmreadRegister
  intro s dst field p f ready current selected
  rw [exec_vmread_of_write (o := .reg dst) ready current selected rfl, eight_mul_operandBytes]
  rfl

theorem vmcsAt_insert_self (p : Word) (v : Vmcs) (s : State) :
    vmcsAt { s with vmcss := Table.insert p.toNat v s.vmcss } p = v := vmcsAt_putVmcs_self p v s

/-- Settles O34: VMWRITE replaces the current VMCS by itself with one field set. -/
theorem vmwriteWrites : Obligations.VmwriteWrites := by
  unfold Obligations.VmwriteWrites
  intro s field src p x f ready current selected admitted read
  rw [operandBits_div] at read
  refine ⟨Table.insert p.toNat (setField s.cfg f.field (writeAccess s p f x) (vmcsAt s p)) s.vmcss,
    exec_vmwrite_of_read ready current selected admitted read, ?_, fun g distinct => ?_, ?_,
    fun q distinct => vmcsAt_putVmcs_of_ne distinct _ s⟩
  · rw [vmcsAt_insert_self, fieldVal_setField_self]
    rfl
  · rw [vmcsAt_insert_self, fieldVal_setField_of_ne _ _ distinct]
  · rw [vmcsAt_insert_self, setField_launch]

/-- Settles O35: without a current VMCS or a field both fail, and VMWRITE to a field it may not write. -/
theorem vmreadVmwriteFail : Obligations.VmreadVmwriteFail := by
  unfold Obligations.VmreadVmwriteFail
  intro s field o ready
  refine ⟨fun missing => ?_, fun f selected exitInfo readOnly => ?_⟩
  · rw [exec_vmread_of_none ready missing, exec_vmwrite_of_none ready missing]
    exact ⟨vmFails_vmFail s, vmFails_vmFail s⟩
  · rw [exec_vmwrite_of_readOnly ready selected exitInfo readOnly]
    exact vmFails_vmFail s

end Sys2Proof.Machine
end

section
/-! PROOFS. What the registers hold after a guest-state or a host-state area was loaded, and the VMCS after a VM exit
(42_vm_entry_exit.md R190, R196 to R199; 10_state.md R70 to R73). -/

namespace Sys2Proof.Machine

/-! ## Values cut to the width of a register -/

/-- A field cut down to a register of `n` bits is the low `n` bits of it. -/
theorem setWidth_setWidth_eq_truncTo (n : Nat) (v : Word) : (v.setWidth n).setWidth 64 = truncTo n v := by
  apply BitVec.eq_of_toNat_eq
  rw [BitVec.toNat_setWidth, BitVec.toNat_setWidth, truncTo, BitVec.toNat_ofNat]

theorem truncTo_truncTo_of_le {m n : Nat} (h : m ≤ n) (v : Word) : truncTo m (truncTo n v) = truncTo m v := by
  apply BitVec.eq_of_toNat_eq
  rw [truncTo_toNat, truncTo_toNat, truncTo_toNat, Nat.mod_mod_of_dvd _ (Nat.pow_dvd_pow 2 h)]

theorem archBase_eq_truncTo (cfg : Config) (g : Seg) (v : Word) :
    archBase cfg g v = truncTo (regWidth cfg (.base g)) v := by
  cases g with
  | cs | ss | ds | es => exact setWidth_setWidth_eq_truncTo 32 v
  | fs | gs | ldtr | tr => rfl

/-- The code of an activity state is the field value that stands for it (10_state.md R71). -/
theorem activityCode_of_activityOf {v : Word} {a : Activity} (h : activityOf v = some a) : activityCode a = v := by
  apply BitVec.eq_of_toNat_eq
  unfold activityOf at h
  split at h
  all_goals cases h
  all_goals next e => exact e.symm

theorem activityCode_fits (a : Activity) : Fits 32 (activityCode a) := by cases a <;> decide

/-- Bit 0 and bits 31:1 of the interruptibility state make up the 32 bits of its field (10_state.md R73). -/
theorem interruptibility_eq_truncTo (v : Word) :
    (v.extractLsb' 1 31 ++ BitVec.ofBool (v.getLsbD 0)).setWidth 64 = truncTo 32 v := by
  have bit0 : BitVec.ofBool (v.getLsbD 0) = v.extractLsb' 0 1 := by
    ext i hi
    obtain rfl : i = 0 := by omega
    simp
  rw [bit0, BitVec.extractLsb'_append_extractLsb'_eq_extractLsb' (Nat.zero_add 1).symm,
    ← BitVec.setWidth_eq_extractLsb' (by decide), setWidth_setWidth_eq_truncTo]

/-! ## Loading registers -/

theorem segs_get_loadRegs (sel : GuestReg → Bool) (val : GuestReg → Word) (s : State) (g : Seg) :
    (loadRegs sel val s).segs.get g = loadSeg s.cfg sel val g (s.segs.get g) := by
  cases g <;> rfl

theorem gpr_loadRegs_of_ne {r : Reg} (h : r ≠ .rsp) (sel : GuestReg → Bool) (val : GuestReg → Word) (s : State) :
    gpr r (loadRegs sel val s) = gpr r s := by
  show (if sel .rsp then s.gprs.set .rsp _ else s.gprs).get r = s.gprs.get r
  split
  · exact Gprs.get_set_of_ne _ h _
  · rfl

theorem setWidth_ite_eq_truncTo (n : Nat) (c : Bool) (v : Word) (x : BitVec n) :
    (if c then v.setWidth n else x).setWidth 64 = if c then truncTo n v else x.setWidth 64 := by
  cases c with
  | true => exact setWidth_setWidth_eq_truncTo n v
  | false => rfl

/-- A register that is loaded takes its value, cut to its width (a code of an activity state only if there is one, R71);
a register that is not loaded stays. -/
theorem regVal_loadRegs {sel : GuestReg → Bool} {val : GuestReg → Word}
    (known : sel .activity = true → ∃ a, activityOf (val .activity) = some a) (s : State) (g : GuestReg) :
    regVal (loadRegs sel val s) g = if sel g then truncTo (regWidth s.cfg g) (val g) else regVal s g := by
  cases g with
  | selector r | limit r | access r =>
    simp only [regVal, segs_get_loadRegs]
    exact setWidth_ite_eq_truncTo _ _ _ _
  | base r => simp only [regVal, segs_get_loadRegs, loadSeg, archBase_eq_truncTo]
  | gdtrLimit | idtrLimit | sysenterCs | smbase => exact setWidth_ite_eq_truncTo _ _ _ _
  | debugctl | perfGlobalCtrl | pat | efer =>
    simp only [regVal, loadRegs, regWidth, guestWidth, truncTo_64]
  | rsp =>
    simp only [regVal, loadRegs]
    split <;> rfl
  | activity =>
    simp only [regVal, loadRegs]
    split
    · next loads =>
      obtain ⟨a, code⟩ := known loads
      rw [code, Option.getD_some, ← activityCode_of_activityOf code]
      exact (truncTo_of_fits (activityCode_fits a)).symm
    · rfl
  | interruptibility =>
    simp only [regVal, loadRegs]
    split
    · exact interruptibility_eq_truncTo _
    · rfl
  | _ => rfl

/-! ## The record of a VM exit -/

theorem fieldVal_recordExit (cfg : Config) (p : Word) (x : ExitValues) (v : Vmcs) :
    fieldVal cfg p (recordExit cfg x v) .exitReason = truncTo 32 x.reason
      ∧ fieldVal cfg p (recordExit cfg x v) .exitQualification = truncTo (natWidth cfg) x.qualification
      ∧ fieldVal cfg p (recordExit cfg x v) .interruptionInfo = truncTo 32 x.interruption := by
  have reason : Field.exitReason ≠ .interruptionInfo ∧ Field.exitReason ≠ .exitQualification := by decide
  have qualification : Field.exitQualification ≠ .interruptionInfo := by decide
  refine ⟨?_, ?_, fieldVal_setField_self _ _ _ _ _⟩
  · rw [recordExit, fieldVal_setField_of_ne _ _ reason.1, fieldVal_setField_of_ne _ _ reason.2, fieldVal_setField_self]
    rfl
  · rw [recordExit, fieldVal_setField_of_ne _ _ qualification, fieldVal_setField_self]
    rfl

theorem recorded_of_recordExit {o : OperandVals} {p : Word} {r : ExitRecord} {s t : State} {v : Vmcs}
    (after : vmcsAt t p = recordExit s.cfg (recordValues s o r) v) : Recorded o p r s t := by
  rw [Recorded, after]
  exact fieldVal_recordExit s.cfg p (recordValues s o r) v

/-! ## What a VM exit saves -/

/-- What stands beyond the width of a register does not reach it (U9; log 54). -/
theorem setWidth_saveUpper (s : State) (g : GuestReg) {n : Nat} (h : n ≤ 64) : (saveUpper s g n).setWidth n = 0 := by
  have ones : (BitVec.ofNat 64 (2 ^ n - 1)).setWidth n = BitVec.allOnes n := by
    rw [BitVec.setWidth_ofNat_of_le h]
    exact (BitVec.ofNatLT_eq_ofNat _).symm
  unfold saveUpper
  split
  · simp
  · rw [BitVec.setWidth_and, BitVec.setWidth_not h, ones]
    simp

theorem truncTo_or_saveUpper (s : State) (g : GuestReg) {n : Nat} (h : n ≤ 64) (v : Word) :
    truncTo n (v ||| saveUpper s g n) = truncTo n v := by
  rw [← setWidth_setWidth_eq_truncTo, ← setWidth_setWidth_eq_truncTo, BitVec.setWidth_or, setWidth_saveUpper s g h]
  simp

/-- What a VM exit saves is the value of the register, up to bits beyond its width. -/
theorem truncTo_saveVal (s : State) (c : Trigger) (g : GuestReg) :
    truncTo (regWidth s.cfg g) (saveVal s (exitRip s c) g) = truncTo (regWidth s.cfg g) (savedVal s c g) := by
  cases g with
  | base r =>
    cases r with
    | cs | ss | ds | es => exact truncTo_or_saveUpper s _ (n := 32) (by decide) _
    | fs | gs | ldtr | tr => rfl
  | gdtrLimit | idtrLimit => exact truncTo_or_saveUpper s _ (n := 16) (by decide) _
  | _ => rfl

theorem regWidth_le_guestWidth (cfg : Config) (g : GuestReg) : regWidth cfg g ≤ guestWidth cfg g := by
  cases g with
  | base r =>
    cases r with
    | cs | ss | ds | es => exact le_natWidth cfg
    | fs | gs | ldtr | tr => exact le_rfl
  | gdtrLimit | idtrLimit => exact show 16 ≤ 32 by decide
  | _ => exact le_rfl

theorem fieldVal_saveGuest_of_not_saved (cfg : Config) (p : Word) (saves : GuestReg → Bool) (val : GuestReg → Word)
    (gs : List GuestReg) (v : Vmcs) {f : Field} (h : ∀ g, f = .guest g → saves g = false) :
    fieldVal cfg p (saveGuest cfg saves val gs v) f = fieldVal cfg p v f := by
  induction gs generalizing v with
  | nil => rfl
  | cons g gs ih =>
    rw [saveGuest, ih]
    split
    · next saved => exact fieldVal_setField_of_ne _ _ (fun is => by simp [h g is] at saved) _ _
    · rfl

section
variable (s : State) (p : Word) (c : Trigger) (r : ExitRecord)

theorem exitVmcs_saved {g : GuestReg} (saved : savesOnExit s.cfg p (vmcsAt s p) g = true) :
    truncTo (regWidth s.cfg g) (fieldVal s.cfg p (exitVmcs s p c r) (.guest g))
      = truncTo (regWidth s.cfg g) (savedVal s c g) := by
  rw [exitVmcs, fieldVal_recordExit_of_ne _ _ _ _ (by simp) (by simp) (by simp),
    fieldVal_saveGuest _ _ _ _ _ _ g (mem_allGuestRegs g) saved,
    truncTo_truncTo_of_le (regWidth_le_guestWidth s.cfg g), truncTo_saveVal]

theorem exitVmcs_notSaved {f : Field} (reason : f ≠ .exitReason) (qualification : f ≠ .exitQualification)
    (interruption : f ≠ .interruptionInfo) (h : ∀ g, f = .guest g → savesOnExit s.cfg p (vmcsAt s p) g = false) :
    fieldVal s.cfg p (exitVmcs s p c r) f = fieldVal s.cfg p (vmcsAt s p) f := by
  rw [exitVmcs, fieldVal_recordExit_of_ne _ _ _ _ reason qualification interruption,
    fieldVal_saveGuest_of_not_saved _ _ _ _ _ _ h]

end

/-! ## Loading the host-state area -/

/-- Every VM exit loads RIP (20_memory.md R105). -/
theorem loadsOnExit_rip (cfg : Config) (p : Word) (v : Vmcs) : loadsOnExit cfg p v .rip = true := by
  simp [loadsOnExit, hasField, isHostField, alwaysHost]

theorem loadHost_rip (p : Word) (v : Vmcs) (s : State) :
    (loadHost p v s).rip = truncTo (natWidth s.cfg) (fieldVal s.cfg p v (.host .rip)) :=
  if_pos (e := s.rip) (loadsOnExit_rip s.cfg p v)

/-- The activity and interruptibility states have no host-state field (log 20). -/
theorem loadsOnExit_state (cfg : Config) (p : Word) (v : Vmcs) :
    loadsOnExit cfg p v .activity = false ∧ loadsOnExit cfg p v .interruptibility = false := ⟨rfl, rfl⟩

section
variable (p : Word) (v : Vmcs) (s : State)

/-- A register that is loaded takes its host value, one that is not stays; but for the state that the VMM always starts
in, and for the parts of CS that are not loaded (20_memory.md R105; log 20). -/
theorem regVal_loadHost {g : GuestReg} (notSs : g ≠ .access .ss) (notActivity : g ≠ .activity)
    (notBlocking : g ≠ .interruptibility)
    (code : g = .base .cs ∨ g = .limit .cs ∨ g = .access .cs → loadsOnExit s.cfg p v g = true) :
    regVal (loadHost p v s) g = if loadsOnExit s.cfg p v g
      then truncTo (regWidth s.cfg g) (fieldVal s.cfg p v (.host g)) else regVal s g := by
  have known : loadsOnExit s.cfg p v .activity = true →
      ∃ a, activityOf (fieldVal s.cfg p v (.host .activity)) = some a := fun loads => by
    simp [(loadsOnExit_state s.cfg p v).1] at loads
  rw [← regVal_loadRegs (val := fun g => fieldVal s.cfg p v (.host g)) known]
  cases g with
  | access r =>
    cases r with
    | cs => exact congrArg (BitVec.setWidth 64) (if_pos (code (.inr (.inr rfl))))
    | ss => exact absurd rfl notSs
    | _ => rfl
  | base r =>
    cases r with
    | cs => exact if_pos (code (.inl rfl))
    | _ => rfl
  | limit r =>
    cases r with
    | cs => exact congrArg (BitVec.setWidth 64) (if_pos (code (.inr (.inl rfl))))
    | _ => rfl
  | activity => exact absurd rfl notActivity
  | interruptibility => exact absurd rfl notBlocking
  | selector r => cases r <;> rfl
  | _ => rfl

theorem gpr_loadHost_of_ne {q : Reg} (other : q ≠ .rsp) : gpr q (loadHost p v s) = gpr q s :=
  gpr_loadRegs_of_ne other (loadsOnExit s.cfg p v) (fun g => fieldVal s.cfg p v (.host g)) s

theorem cpl_loadHost : cpl (loadHost p v s) = 0 := by
  show (_ &&& ~~~0x60#32).extractLsb' 5 2 = 0#2
  rw [BitVec.extractLsb'_and, show (~~~0x60#32).extractLsb' 5 2 = 0#2 from rfl, BitVec.and_zero]

end

/-- The access rights of CS come from the first line whose conditions hold. -/
theorem hostCsAccess_append {cfg : Config} {p : Word} {v : Vmcs} {pre post : List (List CtlCond × BitVec 32)}
    {conds : List CtlCond} {a : BitVec 32} (before : ∀ x ∈ pre, ∃ c ∈ x.1, ctlHolds cfg p v c = false)
    (holds : ∀ c ∈ conds, ctlHolds cfg p v c = true) : hostCsAccess cfg p v (pre ++ (conds, a) :: post) = a := by
  induction pre with
  | nil => exact if_pos (List.all_eq_true.2 holds)
  | cons x pre ih =>
    obtain ⟨failing, rest⟩ := List.forall_mem_cons.1 before
    have fails : ¬ x.1.all (ctlHolds cfg p v) = true := by simpa using failing
    exact (if_neg fails).trans (ih rest)

end Sys2Proof.Machine
end

section
/-! PROOFS. VM entries: what VMLAUNCH and VMRESUME lead to, and when they fail (42_vm_entry_exit.md R180 to R192). -/

namespace Sys2Proof.Machine

/-! ## VM entries -/

/-- A guest-state area that passes the checks names an activity state that the processor has
(93_implementation_defined.md U11). -/
theorem activityOf_of_guestStateOk {s : State} {p : Word} {v : Vmcs} (ok : guestStateOk s p v = true) :
    ∃ a, activityOf (fieldVal s.cfg p v (.guest .activity)) = some a ∧ (a = .active ∨ a ∈ s.cfg.activityStates) := by
  simp only [guestStateOk, Bool.and_eq_true] at ok
  obtain ⟨-, ok⟩ := ok
  split at ok
  · cases ok
  · next a code => exact ⟨a, code, by simpa using ok⟩

/-- A VM entry with VMCS shadowing makes the VMCS of the link pointer active (42_vm_entry_exit.md R192). -/
theorem mem_enterGuest_active_iff (s : State) (p : Word) (l : Bool) (q : Word) :
    q ∈ (enterGuest p l s).active ↔ q ∈ s.active ∨ (vmcsShadowing s.cfg p (vmcsAt s p) = true
      ∧ q = fieldVal s.cfg p (vmcsAt s p) .linkPointer) := by
  show q ∈ (if vmcsShadowing s.cfg p (vmcsAt s p) = true then activate _ s.active else s.active) ↔ _
  split
  · next shadowing => rw [mem_activate, or_comm]; simp [shadowing]
  · next other => simp [other]

section
variable {s : State} {p : Word} {l : Bool}

theorem gpr_enterGuest_of_ne {r : Reg} (other : r ≠ .rsp) : gpr r (enterGuest p l s) = gpr r s :=
  gpr_loadRegs_of_ne other (loadsOnEntry s.cfg p (vmcsAt s p)) (fun g => fieldVal s.cfg p (vmcsAt s p) (.guest g)) s

theorem regVal_enterGuest {a : Activity}
    (known : activityOf (fieldVal s.cfg p (vmcsAt s p) (.guest .activity)) = some a) (g : GuestReg) :
    regVal (enterGuest p l s) g = if loadsOnEntry s.cfg p (vmcsAt s p) g
      then truncTo (regWidth s.cfg g) (fieldVal s.cfg p (vmcsAt s p) (.guest g)) else regVal s g := by
  rw [← regVal_loadRegs (val := fun g => fieldVal s.cfg p (vmcsAt s p) (.guest g)) (fun _ => ⟨a, known⟩)]
  cases g <;> rfl

/-- What the return into a guest leads to, where the guest-state area has passed the checks. -/
theorem entered_enterGuest (launched : l = false → (vmcsAt s p).launch = .launched)
    (ok : guestStateOk s p (vmcsAt s p) = true) : Entered p s (enterGuest p l s) := by
  obtain ⟨a, known, -⟩ := activityOf_of_guestStateOk ok
  have after := vmcsAt_enterGuest launched
  exact
    { mode := rfl
      loaded := fun g loads => (regVal_enterGuest known g).trans (if_pos loads)
      notLoaded := fun g stays => (regVal_enterGuest known g).trans (if_neg (by simp [stays]))
      launch := by rw [after]
      data := fun q f => by
        by_cases same : q = p
        · rw [same, after, fieldVal_launch]
        · rw [vmcsAt_enterGuest_of_ne same]
      others := fun q other => vmcsAt_enterGuest_of_ne other l s
      active := mem_enterGuest_active_iff s p l
      general := fun r other => gpr_enterGuest_of_ne other
      pointers := ⟨rfl, rfl⟩
      rest := ⟨rfl, rfl, rfl, rfl, rfl, rfl, rfl, rfl⟩ }

end

/-- The answers of the checks that are still to come are no part of what a VM entry leads to. -/
theorem Entered.of_entryVerdicts {s t : State} {p : Word} {e : List EntryVerdict}
    (h : Entered p { s with entryVerdicts := e } t) : Entered p s t :=
  { h with }

section
variable {s : State} {p : Word} {l : Bool}

theorem vmEntry_of_pass (pass : entryCheck s p = .pass) :
    vmEntry p l s = .next (enterGuest p l { s with entryVerdicts := s.entryVerdicts.tail }) := by
  simp only [vmEntry, pass]

theorem vmEntry_of_failEarly (early : entryCheck s p = .failEarly) :
    vmEntry p l s = vmFail { s with entryVerdicts := s.entryVerdicts.tail } := by
  simp only [vmEntry, early]

theorem vmEntry_of_failLate (late : entryCheck s p = .failLate) :
    vmEntry p l s = failEntryLate p { s with entryVerdicts := s.entryVerdicts.tail } := by
  simp only [vmEntry, late]

/-- A VM entry whose checks pass enters the guest (42_vm_entry_exit.md R190, R192). -/
theorem entered_vmEntry (launched : l = false → (vmcsAt s p).launch = .launched) (pass : entryCheck s p = .pass) :
    ∃ t, vmEntry p l s = .next t ∧ Entered p s t := by
  have guest := entryCheck_guest pass
  exact ⟨_, vmEntry_of_pass pass,
    (entered_enterGuest (s := { s with entryVerdicts := s.entryVerdicts.tail }) launched guest).of_entryVerdicts⟩

end

/-! ## VMLAUNCH and VMRESUME, check by check -/

section
variable {s : State}

theorem exec_vmlaunch_ready (ready : RootReady s) : exec .vmlaunch s = enterWith .clear true s :=
  vmxPrologue_ready _ ready

theorem exec_vmresume_ready (ready : RootReady s) : exec .vmresume s = enterWith .launched false s :=
  vmxPrologue_ready _ ready

variable {p : Word} {needed : LaunchState} {l : Bool}

theorem enterWith_of_noCurrent (missing : s.currentVmcs = none) : enterWith needed l s = vmFail s := by
  simp only [enterWith, missing]

variable (current : s.currentVmcs = some p)
include current

theorem enterWith_of_shadow (shadow : headerShadow s.mem p = true) : enterWith needed l s = vmFail s := by
  simp only [enterWith, current, shadow, if_true]

variable (ordinary : headerShadow s.mem p = false)
include ordinary

theorem enterWith_of_undefined (undefined : (vmcsAt s p).launch = .undefined) :
    enterWith needed l s = .refused .undefinedLaunchState := by
  simp [enterWith, current, ordinary, undefined]

theorem enterWith_of_wrongLaunch (defined : (vmcsAt s p).launch ≠ .undefined)
    (wrong : (vmcsAt s p).launch ≠ needed) : enterWith needed l s = vmFail s := by
  simp [enterWith, current, ordinary, defined, wrong]

theorem enterWith_of_launch (launch : (vmcsAt s p).launch = needed) (defined : needed ≠ .undefined) :
    enterWith needed l s = vmEntry p l s := by
  simp [enterWith, current, ordinary, launch, defined]

/-- The instructions of VM entry come down to the VM entry, each with the launch state that it requires
(42_vm_entry_exit.md R182, R186). -/
theorem exec_vmlaunch_of_clear (ready : RootReady s) (clear : (vmcsAt s p).launch = .clear) :
    exec .vmlaunch s = vmEntry p true s :=
  (exec_vmlaunch_ready ready).trans (enterWith_of_launch current ordinary clear (by decide))

theorem exec_vmresume_of_launched (ready : RootReady s) (launched : (vmcsAt s p).launch = .launched) :
    exec .vmresume s = vmEntry p false s :=
  (exec_vmresume_ready ready).trans (enterWith_of_launch current ordinary launched (by decide))

end

/-- Settles O36: both instructions come down to the VM entry, which loads the guest-state area that has passed. -/
theorem vmentryEntersGuest : Obligations.VmentryEntersGuest := by
  unfold Obligations.VmentryEntersGuest
  intro s p ready current ordinary pass
  refine ⟨fun clear => ?_, fun launched => ?_⟩
  · rw [exec_vmlaunch_of_clear current ordinary ready clear]
    exact entered_vmEntry (fun resume => by cases resume) pass
  · rw [exec_vmresume_of_launched current ordinary ready launched]
    exact entered_vmEntry (fun _ => launched) pass

/-- Settles O37: the checks pass only where both areas have supported values. -/
theorem entryCheckRejects : Obligations.EntryCheckRejects := by
  unfold Obligations.EntryCheckRejects
  intro s p pass
  have guest := entryCheck_guest pass
  have host : hostStateOk s p (vmcsAt s p) = true := entryCheck_host (by rw [pass]; decide)
  have activity := activityOf_of_guestStateOk guest
  simp only [guestStateOk, hostStateOk, Bool.and_eq_true] at guest host
  obtain ⟨⟨cr0, cr4⟩, -⟩ := guest
  refine ⟨cr4, fun restricted => ?_, fun unrestricted => ?_, host.1, host.2, activity⟩
  · simpa only [guestCr0Ok, restricted, Bool.false_eq_true, if_false] using cr0
  · simpa only [guestCr0Ok, unrestricted, if_true, forcePePg] using cr0

/-- Settles O38: each condition fails one check of the VM entry, and the checks before it pass or fail likewise. -/
theorem vmentryFails : Obligations.VmentryFails := by
  unfold Obligations.VmentryFails
  intro s ready
  simp only [exec_vmlaunch_ready ready, exec_vmresume_ready ready]
  refine ⟨fun missing => ?_, fun p current shadow => ?_, fun p current ordinary launched => ?_,
    fun p current ordinary clear => ?_, fun p current ordinary early => ⟨fun clear => ?_, fun launched => ?_⟩⟩
  · rw [enterWith_of_noCurrent missing, enterWith_of_noCurrent missing]
    exact ⟨vmFails_vmFail s, vmFails_vmFail s⟩
  · rw [enterWith_of_shadow current shadow, enterWith_of_shadow current shadow]
    exact ⟨vmFails_vmFail s, vmFails_vmFail s⟩
  · rw [enterWith_of_wrongLaunch current ordinary (by simp [launched]) (by simp [launched])]
    exact vmFails_vmFail s
  · rw [enterWith_of_wrongLaunch current ordinary (by simp [clear]) (by simp [clear])]
    exact vmFails_vmFail s
  · rw [enterWith_of_launch current ordinary clear (by decide), vmEntry_of_failEarly early]
    exact vmFails_vmFail _
  · rw [enterWith_of_launch current ordinary launched (by decide), vmEntry_of_failEarly early]
    exact vmFails_vmFail _

/-! ## VM entries that fail late -/

/-- The VMCS at `p` after a VM entry with it failed late: the cause is recorded (42_vm_entry_exit.md R189; log 22). -/
def lateVmcs (s : State) (p : Word) (r : ExitRecord) : Vmcs :=
  recordExit s.cfg (recordValues s noOperands r) (vmcsAt s p)

theorem failEntryLate_of_record {s : State} {p : Word} {r : ExitRecord}
    (record : lookupExitInfo .entryFailure s.cfg.exitInfo = some r) :
    failEntryLate p s = .next (loadHost p (lateVmcs s p r) (putVmcs p (lateVmcs s p r) s)) := by
  simp only [failEntryLate, record, lateVmcs]

theorem failedLate_loadHost {s : State} {p : Word} (current : s.currentVmcs = some p) (r : ExitRecord) :
    FailedLate p r s (loadHost p (lateVmcs s p r) (putVmcs p (lateVmcs s p r) s)) := by
  have after := vmcsAt_putVmcs_self p (lateVmcs s p r) s
  have kept (f : Field) (other : isExitInfo f = false) := fieldVal_recordExit_of_ne s.cfg p
    (recordValues s noOperands r) (vmcsAt s p) (f := f) (by rintro rfl; cases other) (by rintro rfl; cases other)
    (by rintro rfl; cases other)
  exact
    { mode := rfl
      rip := (loadHost_rip p _ _).trans (congrArg _ (kept (.host .rip) rfl))
      recorded := recorded_of_recordExit after
      launch := (congrArg Vmcs.launch after).trans (recordExit_launch _ _ _)
      guest := fun g => (congrArg (fieldVal s.cfg p · (.guest g)) after).trans (kept (.guest g) rfl)
      others := fun q other => vmcsAt_putVmcs_of_ne other _ s
      rest := ⟨current, rfl, rfl, rfl⟩ }

/-- Nor are those answers part of what a VM entry that fails late leads to. -/
theorem FailedLate.of_entryVerdicts {s t : State} {p : Word} {r : ExitRecord} {e : List EntryVerdict}
    (h : FailedLate p r { s with entryVerdicts := e } t) : FailedLate p r s t :=
  { h with
    recorded := by simpa only [Recorded, evalTerm_bookkeeping] using h.recorded }

/-- A VM entry whose checks fail late goes to the host-state area (42_vm_entry_exit.md R189, D13). -/
theorem failedLate_vmEntry {s : State} {p : Word} {l : Bool} {r : ExitRecord} (current : s.currentVmcs = some p)
    (late : entryCheck s p = .failLate) (record : lookupExitInfo .entryFailure s.cfg.exitInfo = some r) :
    ∃ t, vmEntry p l s = .next t ∧ FailedLate p r s t :=
  ⟨_, (vmEntry_of_failLate late).trans (failEntryLate_of_record record),
    (failedLate_loadHost (s := { s with entryVerdicts := s.entryVerdicts.tail }) current r).of_entryVerdicts⟩

/-- Settles O39: both instructions come down to the VM entry, which loads the host-state area. -/
theorem vmentryFailsLate : Obligations.VmentryFailsLate := by
  unfold Obligations.VmentryFailsLate
  intro s p r ready current ordinary late record
  refine ⟨fun clear => ?_, fun launched => ?_⟩
  · rw [exec_vmlaunch_of_clear current ordinary ready clear]
    exact failedLate_vmEntry current late record
  · rw [exec_vmresume_of_launched current ordinary ready launched]
    exact failedLate_vmEntry current late record

end Sys2Proof.Machine
end

section
/-! PROOFS. VM exits: what they lead to, and which instructions they replace (42_vm_entry_exit.md R194 to R200;
60_exceptions.md R249, R251). -/

namespace Sys2Proof.Machine

/-! ## VM exits -/

/-- What a VM exit with the record `r` leads to (42_vm_entry_exit.md R196 to R200). -/
theorem exited_loadHost (s : State) (p : Word) (c : Trigger) (r : ExitRecord) :
    Exited c p r s (loadHost p (exitVmcs s p c r) (putVmcs p (exitVmcs s p c r) s)) := by
  have after : vmcsAt (loadHost p (exitVmcs s p c r) (putVmcs p (exitVmcs s p c r) s)) p = exitVmcs s p c r :=
    vmcsAt_putVmcs_self p _ s
  have value {g : GuestReg} := regVal_loadHost p (exitVmcs s p c r) (putVmcs p (exitVmcs s p c r) s) (g := g)
  constructor
  case mode => rfl
  case saved =>
    intro g saved
    rw [after, exitVmcs_saved s p c r saved]
  case notSaved =>
    intro f reason qualification interruption h
    rw [after, exitVmcs_notSaved s p c r reason qualification interruption h]
  case recorded => exact recorded_of_recordExit after
  case loaded =>
    intro g loads notSs
    rw [after] at loads
    obtain ⟨noActivity, noBlocking⟩ := loadsOnExit_state s.cfg p (exitVmcs s p c r)
    have notActivity : g ≠ .activity := fun is => by simp [is, noActivity] at loads
    have notBlocking : g ≠ .interruptibility := fun is => by simp [is, noBlocking] at loads
    rw [← exitVmcs_host s p c r g]
    exact (value notSs notActivity notBlocking fun _ => loads).trans (if_pos loads)
  case notLoaded =>
    intro g stays notSs notActivity notBlocking notBase notLimit notAccess
    rw [after] at stays
    refine (value notSs notActivity notBlocking fun code => ?_).trans (if_neg (by simp [stays]))
    simp [notBase, notLimit, notAccess] at code
  case code =>
    rw [after]
    refine ⟨fun stays => if_neg (by simp [stays]), fun stays => if_neg (by simp [stays]),
      fun stays pre conds a post lines before holds => ?_⟩
    have first := hostCsAccess_append (a := a) (post := post) before holds
    rw [← lines] at first
    exact (if_neg (by simp [stays])).trans first
  case privilege => exact cpl_loadHost _ _ _
  case runs => exact ⟨rfl, rfl, rfl⟩
  case launch => rw [after, exitVmcs_launch]
  case others => exact fun q other => vmcsAt_putVmcs_of_ne other _ s
  case general => exact fun q other => gpr_loadHost_of_ne _ _ _ other
  case pointers => exact ⟨rfl, rfl, rfl⟩
  case rest => exact ⟨rfl, rfl, rfl, rfl, rfl, rfl, rfl, rfl⟩

section
variable {s : State} {c : Trigger} {p : Word} (current : s.currentVmcs = some p)
include current

theorem exited_vmExit {r : ExitRecord} (record : lookupExitInfo c.cause s.cfg.exitInfo = some r) :
    ∃ t, vmExit c s = .next t ∧ Exited c p r s t :=
  ⟨_, by simp only [vmExit, current, record], exited_loadHost s p c r⟩

theorem vmExit_undetermined (unknown : lookupExitInfo c.cause s.cfg.exitInfo = none) :
    vmExit c s = .refused .exitUndetermined := by
  simp only [vmExit, current, unknown]

end

/-! ## Instructions in a guest -/

/-- The #UD conditions of every VMX instruction ask for an operating mode for VMX (D19, D20). -/
theorem modeOk_of_exitReached {i : Instr} {s : State} (vmx : isVmx i = true) (reached : exitReached i s = true) :
    modeOk s = true := by
  cases i with
  | vmxon m => exact (Bool.and_eq_true_iff.1 reached).2
  | vmcall | vmlaunch | vmresume | vmxoff | vmptrld | vmclear | vmptrst | vmread | vmwrite => exact reached
  | _ => cases vmx

section
variable {s : State} {c : Trigger} (guest : s.vmxMode = .nonRoot)
include guest

theorem inVmx_of_guest : inVmx s = true := by simp [inVmx, guest]

theorem exec_vmcall_guest (mode : modeOk s = true) : exec .vmcall s = vmExit (triggerOf .vmcall s) s := by
  simp only [exec, execVmcall, inVmx_of_guest guest, mode, Bool.not_true, Bool.or_self, Bool.false_eq_true, if_false,
    if_pos guest]

theorem exec_vmxon_guest (vmxe : s.cr4.getLsbD 13 = true) (mode : modeOk s = true) (m : MemOperand) :
    exec (.vmxon m) s = if exits s (triggerOf (.vmxon m) s) then vmExit (triggerOf (.vmxon m) s) s
      else .refused .nonRootNotExiting := by
  simp only [exec, execVmxon, vmxe, mode, guest, Bool.not_true, Bool.or_self, Bool.false_eq_true, if_false]

theorem vmxPrologue_guest (mode : modeOk s = true) (body : State → Result) :
    vmxPrologue c s body = if exits s c then vmExit c s else .refused .nonRootNotExiting := by
  simp only [vmxPrologue, inVmx_of_guest guest, mode, guest, Bool.not_true, Bool.or_self, Bool.false_eq_true, if_false,
    if_true]

theorem basePrologue_exits (exiting : exits s c = true) (body : State → Result) :
    basePrologue c s body = vmExit c s := by
  simp [basePrologue, guest, exiting]

theorem privileged_exits (exiting : exits s c = true) (body : State → Result) : privileged c s body = vmExit c s :=
  basePrologue_exits guest exiting _

/-- In a guest a VMX instruction exits or is refused (41_vmcs_maintenance.md R150 line 2; VMCALL always exits). -/
theorem exec_vmx_guest {i : Instr} (vmx : isVmx i = true) (reached : exitReached i s = true) : exec i s
    = if exits s (triggerOf i s) then vmExit (triggerOf i s) s else .refused .nonRootNotExiting := by
  have mode := modeOk_of_exitReached vmx reached
  rcases isVmx_cases vmx with rfl | ⟨m, rfl⟩ | ⟨body, same⟩
  · exact exec_vmcall_guest guest mode
  · exact exec_vmxon_guest guest (Bool.and_eq_true_iff.1 reached).1 mode m
  · rw [same, vmxPrologue_guest guest mode]

/-- A VM exit replaces the instruction once the conditions of its #UD are passed (42_vm_entry_exit.md R195; D19). -/
theorem exec_of_exits {i : Instr} (reached : exitReached i s = true) (exiting : exits s (triggerOf i s) = true) :
    exec i s = vmExit (triggerOf i s) s := by
  cases i with
  | cpuid | mwait | sti => simp only [exec, execCpuid, execMwait, execSti, basePrologue_exits guest exiting]
  | wrmsr | clts | lmsw | hlt =>
    simp only [exec, execWrmsr, execClts, execLmsw, execHlt, privileged_exits guest exiting]
  | movToCr cr src =>
    obtain ⟨v, value⟩ := Option.isSome_iff_exists.1 reached
    simp only [exec, execMovToCr, value, Option.isNone_some, Bool.false_eq_true, if_false,
      privileged_exits guest exiting]
  | movFromCr dst cr =>
    obtain ⟨v, value⟩ := Option.isSome_iff_exists.1 reached
    simp only [exec, execMovFromCr, value, privileged_exits guest exiting]
  | getsec =>
    have smx : s.cfg.smx = true := reached
    simp only [exec, execGetsec, smx, Bool.not_true, Bool.false_eq_true, if_false, basePrologue_exits guest exiting]
  | _ => exact (exec_vmx_guest guest rfl reached).trans (if_pos exiting)

end

/-- Settles O40: at any CPL, for VMCALL asks for no privilege in a guest. -/
theorem vmcallExits : Obligations.VmcallExits := by
  unfold Obligations.VmcallExits
  intro s p r guest mode current record
  rw [exec_vmcall_guest guest mode]
  exact exited_vmExit current record

/-- Settles O41: every exiting instruction is a VM exit, and `exited_loadHost` says what that leads to. -/
theorem exitReplacesInstruction : Obligations.ExitReplacesInstruction := by
  unfold Obligations.ExitReplacesInstruction
  intro i s p r guest reached exiting current record
  rw [exec_of_exits guest reached exiting]
  exact exited_vmExit current record

end Sys2Proof.Machine
end

section
/-! PROOFS. What the machine refuses, by name (42_vm_entry_exit.md R183, R194, R202; 41_vmcs_maintenance.md R150
line 2b; 20_memory.md R80, R91, R94). -/

namespace Sys2Proof.Machine

theorem exec_vmcall_root {s : State} (ready : RootReady s) : exec .vmcall s = .refused .vmcallInRoot := by
  obtain ⟨root, mode, privilege⟩ := ready
  simp [exec, execVmcall, inVmx_of_root root, mode, root, privilege]

/-- A store where the processor owns a byte is refused (20_memory.md R91). -/
theorem writeMem_of_owned {s : State} {m : MemOperand} {n a : Nat} {as : List Nat}
    (usable : segUsable s (operandSeg m) = true) (addrs : physAddrs s .write n (linearAddr s m) = .ok as)
    (listed : a ∈ as) (owned : processorOwned s a = true) (v : Word) :
    writeMem s m n v = .error (.refuse .storeToProcessorRegion) := by
  have some_owned : as.any (processorOwned s) = true := List.any_eq_true.2 ⟨a, listed, owned⟩
  simp only [writeMem, memWrite, usable, addrs, some_owned, if_true]

section
variable {s : State} {acc : Access} {lin : Word} {x : Stop}

theorem translate_of_unlisted (unlisted : findTranslation s acc lin s.cfg.translation = none)
    (inside : lin.toNat < 2 ^ s.cfg.paWidth) : Machine.translate s acc lin = reach s.cfg lin.toNat := by
  simp only [Machine.translate, unlisted, if_pos inside]

theorem reach_of_absent {cfg : Config} {a : Nat} (absent : inMap cfg .absent a = true) :
    reach cfg a = .error (.fault .noSuchPhysicalAddress) := by
  simp only [reach, absent, Bool.or_true, if_true]

theorem reach_of_device {cfg : Config} {a : Nat} (inside : a < 2 ^ cfg.paWidth) (present : inMap cfg .absent a = false)
    (device : inMap cfg .device a = true) : reach cfg a = .error (.refuse .deviceAccess) := by
  simp [reach, inside, present, device]

/-- An operand stops where its first byte does. -/
theorem physAddrs_of_translate_error (stops : Machine.translate s acc lin = .error x) (n : Nat) :
    physAddrs s acc (n + 1) lin = .error x := by
  simp only [physAddrs, stops]

variable {m : MemOperand} (usable : segUsable s (operandSeg m) = true) (n : Nat)
include usable

theorem readMem_of_translate_error (stops : Machine.translate s .read (linearAddr s m) = .error x) :
    readMem s m (n + 1) = .error x := by
  simp only [readMem, memRead, usable, physAddrs_of_translate_error stops, if_true]

theorem writeMem_of_translate_error (stops : Machine.translate s .write (linearAddr s m) = .error x) (v : Word) :
    writeMem s m (n + 1) v = .error x := by
  simp only [writeMem, memWrite, usable, physAddrs_of_translate_error stops, if_true]

end

section
variable {s : State} {p : Word} (valid : validPtr s.cfg p = true)
include valid

theorem offMemory_of_valid (other : p ≠ s.vmxonPtr) (off : regionInMemory s.cfg p (vmcsSize s.cfg) = false) :
    offMemory s p = true := by
  simp [offMemory, valid, other, off]

theorem enterVmx_offMemory (off : regionInMemory s.cfg p s.cfg.vmxonSize = false) :
    enterVmx p s = .refused .regionNotMemory := by
  simp [enterVmx, valid, off]

end

theorem exec_vmptrld_offMemory {s : State} {m : MemOperand} {p : Word} (ready : RootReady s)
    (read : readMem s m 8 = .ok p) (off : offMemory s p = true) :
    exec (.vmptrld m) s = .refused .regionNotMemory := by
  simp only [exec, execVmptrld, vmxPrologue_ready _ ready, read, off, if_true]

/-- Settles O42: each stop by the check that raises it; those of an operand are passed on by what reads or writes it. -/
theorem refused : Obligations.Refused := by
  unfold Obligations.Refused
  intro s
  refine ⟨exec_vmcall_root, fun p ready current ordinary undefined => ?_,
    fun i vmx _ guest reached stays => (exec_vmx_guest guest vmx reached).trans (if_neg (by simp [stays])),
    fun m as a ready usable addrs listed owned => ?_,
    fun m field p f as a ready current selected usable addrs listed owned => ?_,
    fun i p guest reached exiting current unknown => ?_,
    fun acc lin unlisted inside => ⟨fun absent => ?_, fun present device => ?_⟩,
    fun m ready usable => ⟨fun stops => ?_, fun stops => ?_⟩, fun m p ready read valid other off => ?_,
    fun m q ready supported read valid off => ?_⟩
  · rw [exec_vmlaunch_ready ready, exec_vmresume_ready ready]
    exact ⟨enterWith_of_undefined current ordinary undefined, enterWith_of_undefined current ordinary undefined⟩
  · exact exec_vmptrst_of_error ready (writeMem_of_owned usable addrs listed owned _)
  · rw [operandBits_div] at addrs
    exact exec_vmread_of_error (o := .mem m) ready current selected (writeMem_of_owned usable addrs listed owned _)
  · rw [exec_of_exits guest reached exiting]
    exact vmExit_undetermined current unknown
  · rw [translate_of_unlisted unlisted inside, reach_of_absent absent]
  · rw [translate_of_unlisted unlisted inside, reach_of_device inside present device]
  · have read := readMem_of_translate_error usable 7 stops
    exact ⟨exec_vmptrld_of_error ready read, exec_vmclear_of_error ready read⟩
  · exact exec_vmptrst_of_error ready (writeMem_of_translate_error usable 7 stops _)
  · have outside := offMemory_of_valid valid other off
    rw [exec_vmclear_of_read ready read valid other, if_pos outside]
    exact ⟨exec_vmptrld_offMemory ready read outside, rfl⟩
  · rw [exec_vmxon_of_read ready supported read]
    exact enterVmx_offMemory valid off

end Sys2Proof.Machine
end

section
/-! PROOFS. The privilege check; CPUID, WRMSR and RDMSR: what a processor reports, and its model-specific registers
(43_base_instructions.md R210 to R214; log 34, log 35, log 63). -/

namespace Sys2Proof.Machine

/-! ## Privilege -/

/-- The base architecture's privilege check (G13, PRESUMED; log 36). -/
theorem privileged_unprivileged {c : Trigger} {s : State} (runs : s.vmxMode = .nonRoot → exits s c = false)
    (user : cpl s ≠ 0) (body : State → Result) : privileged c s body = raise .generalProtection s := by
  rw [privileged, basePrologue_ready _ runs, if_pos user]

/-! ## CPUID -/

theorem exec_cpuid {s : State} (runs : NotExiting .cpuid s) :
    exec .cpuid s = .next (complete { s with gprs := cpuidGprs s }) :=
  basePrologue_ready (fun s => .next (complete { s with gprs := cpuidGprs s })) runs

theorem cpuidEax_of_widthLeaf {s : State} (leaf : (gpr .rax s).setWidth 32 = 0x80000008#32) :
    (cpuidEax s).extractLsb' 0 8 = BitVec.ofNat 8 s.cfg.paWidth := by
  rw [cpuidEax, if_pos leaf]
  exact BitVec.extractLsb'_append_eq_right

theorem cpuidEcx_of_featureLeaf {s : State} (leaf : (gpr .rax s).setWidth 32 = 1#32) :
    (cpuidEcx s).getLsbD 5 = s.cfg.vmx := by
  simp only [cpuidEcx, if_pos leaf, BitVec.getLsbD_append]
  simp

/-- Settles O44: the four outputs are the model's own, and two of them answer the two leaves. -/
theorem cpuidReports : Obligations.CpuidReports := by
  unfold Obligations.CpuidReports
  intro s runs
  exact ⟨cpuidEax s, Config.cpuidOutput s.draws .rbx, cpuidEcx s, Config.cpuidOutput s.draws .rdx, exec_cpuid runs,
    cpuidEcx_of_featureLeaf, cpuidEax_of_widthLeaf⟩

/-! ## WRMSR and RDMSR, by the MSR they name -/

section
variable {s : State} (privilege : cpl s = 0)
include privilege

theorem exec_wrmsr_of_msr {r : Msr} (runs : NotExiting .wrmsr s)
    (msr : msrAt s.cfg ((gpr .rcx s).setWidth 32) = some r) : exec .wrmsr s = writeMsr r (edxEax s) s := by
  simp only [exec, execWrmsr, privileged_ready _ runs privilege, msr]

theorem exec_wrmsr_of_noMsr (runs : NotExiting .wrmsr s) (msr : msrAt s.cfg ((gpr .rcx s).setWidth 32) = none) :
    exec .wrmsr s = raise .generalProtection s := by
  simp only [exec, execWrmsr, privileged_ready _ runs privilege, msr]

variable (runs : s.vmxMode = .nonRoot → exits s (.plain .rdmsr) = false)
include runs

theorem execRdmsr_of_msr {r : Msr} (msr : msrAt s.cfg ((gpr .rcx s).setWidth 32) = some r) :
    execRdmsr s = .next (complete (setGpr .rdx (readMsr s r >>> 32) (setGpr .rax (low32 (readMsr s r)) s))) := by
  simp only [execRdmsr, privileged_ready _ runs privilege, msr]

theorem execRdmsr_of_noMsr (msr : msrAt s.cfg ((gpr .rcx s).setWidth 32) = none) :
    execRdmsr s = raise .generalProtection s := by
  simp only [execRdmsr, privileged_ready _ runs privilege, msr]

end

/-! ## IA32_FEATURE_CONTROL -/

theorem not_enablesSupported_iff (cfg : Config) (v : Word) : (!enablesSupported cfg v) = true
    ↔ (v.getLsbD 1 = true ∧ ¬ (cfg.vmx = true ∧ cfg.smx = true)) ∨ (v.getLsbD 2 = true ∧ cfg.vmx = false) := by
  simp only [enablesSupported, Bool.not_and, Bool.not_or, Bool.not_not, Bool.or_eq_true, Bool.and_eq_true,
    Bool.not_eq_true', not_and_or, Bool.not_eq_true]

theorem ushiftRight_three_eq_zero_iff (v : Word) : v >>> 3 = 0 ↔ v.extractLsb' 3 61 = 0 := by
  rw [← BitVec.toNat_inj, ← BitVec.toNat_inj, BitVec.toNat_ushiftRight, BitVec.extractLsb'_toNat]
  have small : v.toNat >>> 3 < 2 ^ 61 := by
    have := v.isLt
    rw [Nat.shiftRight_eq_div_pow]
    omega
  rw [Nat.mod_eq_of_lt small]
  rfl

/-- The checks of R213 in the order in which it lists them. -/
theorem writeFeatureControl_eq (v : Word) (s : State) : writeFeatureControl v s =
    if s.featureControl.getLsbD 0 = true then raise .generalProtection s
    else if v.getLsbD 1 = true ∧ ¬ (s.cfg.vmx = true ∧ s.cfg.smx = true) then raise .generalProtection s
    else if v.getLsbD 2 = true ∧ s.cfg.vmx = false then raise .generalProtection s
    else if v.extractLsb' 3 61 ≠ 0 then .refused .featureControlReserved
    else .next (complete { s with featureControl := v }) := by
  simp only [writeFeatureControl, not_enablesSupported_iff, ite_or, ne_eq, ushiftRight_three_eq_zero_iff]

/-- Settles O45: WRMSR at 3AH is `writeFeatureControl` of EDX:EAX. -/
theorem wrmsrFeatureControl : Obligations.WrmsrFeatureControl := by
  unfold Obligations.WrmsrFeatureControl
  rintro s v runs privilege address rfl
  have msr : msrAt s.cfg ((gpr .rcx s).setWidth 32) = some .featureControl := by rw [address]; rfl
  rw [exec_wrmsr_of_msr privilege runs msr]
  exact writeFeatureControl_eq (edxEax s) s

/-! ## The other MSRs -/

/-- The capability MSRs (10_state.md R37). -/
def capabilityMsrs : List Msr :=
  [.vmxBasic, .vmxMisc, .vmxCr0Fixed0, .vmxCr0Fixed1, .vmxCr4Fixed0, .vmxCr4Fixed1, .vmxProcbasedCtls2]

/-- The value of an MSR after it was written: cut to its width (10_state.md R51 to R54). -/
def msrValue (cfg : Config) (r : Msr) (v : Word) : Word :=
  if r = .sysenterCs then truncTo 32 v
  else if r = .sysenterEsp ∨ r = .sysenterEip then truncTo (natWidth cfg) v else v

theorem writeMsr_of_capability {r : Msr} (capability : r ∈ capabilityMsrs) (v : Word) (s : State) :
    writeMsr r v s = raise .generalProtection s := by
  simp only [capabilityMsrs, List.mem_cons, List.not_mem_nil, or_false] at capability
  rcases capability with rfl | rfl | rfl | rfl | rfl | rfl | rfl <;> rfl

/-- What a completed WRMSR leaves: the MSR `r` reads `x`, the other MSRs and the parts of the state listed are as before,
and execution goes on at the next instruction. -/
structure MsrWritten (r : Msr) (x : Word) (s t : State) : Prop where
  written : readMsr t r = x
  others : ∀ q, q ≠ r → readMsr t q = readMsr s q
  rest : t.rip = s.nextRip ∧ t.gprs = s.gprs ∧ t.rflags = s.rflags ∧ t.cr0 = s.cr0 ∧ t.cr4 = s.cr4 ∧ t.segs = s.segs
    ∧ t.mem = s.mem ∧ t.vmcss = s.vmcss ∧ t.vmxMode = s.vmxMode ∧ t.currentVmcs = s.currentVmcs ∧ t.active = s.active
    ∧ t.smxOp = s.smxOp

theorem readMsr_insert_of_ne {a : BitVec 32} {q : Msr} (other : q ≠ .other a) (v : Word) (s : State) :
    readMsr { s with otherMsrs := Table.insert a.toNat v s.otherMsrs } q = readMsr s q := by
  cases q with
  | other b =>
    have apart : b.toNat ≠ a.toNat := fun same => other (by rw [BitVec.eq_of_toNat_eq same])
    simp only [readMsr, Table.find?_insert_of_ne apart]
  | _ => rfl

/-- Every MSR that can be written has a place of its own, which no other MSR reads. -/
theorem writeMsr_written {r : Msr} (special : r ≠ .featureControl) (writable : r ∉ capabilityMsrs) (v : Word)
    (s : State) : ∃ t, writeMsr r v s = .next t ∧ MsrWritten r (msrValue s.cfg r v) s t := by
  cases r with
  | featureControl => exact absurd rfl special
  | vmxBasic | vmxMisc | vmxCr0Fixed0 | vmxCr0Fixed1 | vmxCr4Fixed0 | vmxCr4Fixed1 | vmxProcbasedCtls2 =>
    exact absurd (by decide) writable
  | sysenterCs =>
    exact ⟨_, rfl, setWidth_setWidth_eq_truncTo 32 v, fun q other => by cases q <;> trivial, by simp⟩
  | other a =>
    have written : (Table.find? a.toNat (Table.insert a.toNat v s.otherMsrs)).getD 0 = v := by
      rw [Table.find?_insert_self, Option.getD_some]
    exact ⟨_, rfl, written, fun q other => readMsr_insert_of_ne other v s, by simp⟩
  | _ => exact ⟨_, rfl, rfl, fun q other => by cases q <;> trivial, by simp⟩

/-- Settles O46: WRMSR is `writeMsr` of the MSR that ECX names, RDMSR is `readMsr` of it. -/
theorem msrAccess : Obligations.MsrAccess := by
  unfold Obligations.MsrAccess
  rintro s v rfl
  refine ⟨fun r runs privilege msr special => ?_, fun runs privilege noMsr => exec_wrmsr_of_noMsr privilege runs noMsr,
    fun r runs privilege msr => ?_, fun runs bad => ?_⟩
  · rw [exec_wrmsr_of_msr privilege runs msr]
    refine ⟨fun capability => writeMsr_of_capability capability _ s, fun writable => ?_⟩
    obtain ⟨t, is, written, others, rip, rest⟩ := writeMsr_written special writable (edxEax s) s
    exact ⟨t, is, rip, written, others, rest⟩
  · rw [execRdmsr_of_msr privilege runs msr, low32, setWidth_setWidth_eq_truncTo]
    rfl
  · by_cases privilege : cpl s = 0
    · exact execRdmsr_of_noMsr privilege runs (bad.resolve_left (not_not.2 privilege))
    · exact privileged_unprivileged runs privilege _

end Sys2Proof.Machine
end

section
/-! PROOFS. The control registers: MOV, CLTS and LMSW (43_base_instructions.md R215 to R217; 10_state.md R24 to R28;
log 36, log 37). -/

namespace Sys2Proof.Machine

/-! ## Single bits -/

theorem getLsbD_one_shiftLeft {k n : Nat} (inside : k < 64) : (1#64 <<< k).getLsbD n = decide (n = k) := by
  rw [← BitVec.twoPow_eq, BitVec.getLsbD_twoPow, decide_eq_true inside, Bool.true_and]
  exact decide_eq_decide.2 eq_comm

theorem getLsbD_clearBit {k : Nat} (inside : k < 64) (v : Word) (n : Nat) :
    (clearBit k v).getLsbD n = (v.getLsbD n && !decide (n = k)) := by
  rw [clearBit, BitVec.getLsbD_and, BitVec.getLsbD_not, getLsbD_one_shiftLeft inside]
  by_cases bit : n < 64
  · simp only [bit, decide_true, Bool.true_and]
  · rw [BitVec.getLsbD_of_ge v n (by omega), Bool.false_and, Bool.false_and]

theorem getLsbD_setBit {k : Nat} (inside : k < 64) (v : Word) (n : Nat) :
    (setBit k v).getLsbD n = (v.getLsbD n || decide (n = k)) := by
  rw [setBit, BitVec.getLsbD_or, getLsbD_one_shiftLeft inside]

/-! ## What VMX operation admits -/

/-- The check passes the values of CR0 that the rules allow (10_state.md R27, R28; 43_base_instructions.md R217). -/
theorem cr0Allowed_iff (s : State) (v : Word) : cr0Allowed s v = true ↔ Cr0Admitted s v := by
  cases mode : s.vmxMode with
  | outside => simp [cr0Allowed, Cr0Admitted, mode]
  | root => simp [cr0Allowed, Cr0Admitted, mode]
  | nonRoot =>
    cases current : s.currentVmcs with
    | none => simp [cr0Allowed, Cr0Admitted, guestUnrestricted, mode, current]
    | some p =>
      cases unrestricted : unrestrictedGuest s.cfg p (vmcsAt s p) <;>
        simp [cr0Allowed, Cr0Admitted, guestUnrestricted, guestCr0Ok, forcePePg, mode, current, unrestricted]

theorem cr4Allowed_iff (s : State) (v : Word) :
    cr4Allowed s v = true ↔ s.vmxMode = .outside ∨ cr4Ok s.cfg v = true := by
  unfold cr4Allowed
  cases mode : s.vmxMode <;> simp

/-- Whatever the processor, VMX operation needs CR4.VMXE (00_scope.md R11). -/
theorem cr4Ok_withoutVmxe {cfg : Config} {v : Word} (vmxe : v.getLsbD 13 = false) : cr4Ok cfg v = false := by
  simp only [cr4Ok, vmxe, Bool.false_and]

/-! ## Writing a control register -/

/-- CR0 takes the value, or #GP and CR0 as it was. -/
theorem writeCr0_eq (s : State) (v : Word) :
    (Cr0Admitted s v → writeCr0 v s = .next (complete { s with cr0 := v }))
      ∧ (¬ Cr0Admitted s v → writeCr0 v s = raise .generalProtection s) := by
  rw [← cr0Allowed_iff]
  exact ⟨fun admitted => if_pos admitted, fun forbidden => if_neg forbidden⟩

section
variable {s : State} {v : Word}

theorem writeCr4_of_admitted (vmx : s.cfg.vmx = true) (admitted : s.vmxMode = .outside ∨ cr4Ok s.cfg v = true) :
    writeCr4 v s = .next (complete { s with cr4 := v }) := by
  simp only [writeCr4, (cr4Allowed_iff s v).2 admitted, vmx, Bool.true_or, Bool.and_self, if_true]

theorem writeCr4_of_forbidden (vmxOperation : s.vmxMode ≠ .outside) (forbidden : cr4Ok s.cfg v = false) :
    writeCr4 v s = raise .generalProtection s := by
  have notAllowed : cr4Allowed s v = false := by
    rw [Bool.eq_false_iff, ne_eq, cr4Allowed_iff]
    simp [vmxOperation, forbidden]
  simp [writeCr4, notAllowed]

theorem writeCr4_vmxe_withoutVmx (vmx : s.cfg.vmx = false) (vmxe : v.getLsbD 13 = true) :
    writeCr4 v s = raise .generalProtection s := by
  simp [writeCr4, vmx, vmxe]

/-- Bits 63:4 of CR8 are reserved (log 36). -/
theorem ushiftRight_four_eq_zero_iff (v : Word) : v >>> 4 = 0 ↔ v.toNat < 16 := by
  rw [← BitVec.toNat_inj, BitVec.toNat_ushiftRight, Nat.shiftRight_eq_div_pow]
  exact Nat.div_eq_zero_iff_lt (by decide)

theorem writeCr8_of_lt (small : v.toNat < 16) : writeCr8 v s = .next (complete { s with cr8 := v }) :=
  if_pos ((ushiftRight_four_eq_zero_iff v).2 small)

theorem writeCr8_of_le (large : 16 ≤ v.toNat) : writeCr8 v s = raise .generalProtection s :=
  if_neg (mt (ushiftRight_four_eq_zero_iff v).1 (Nat.not_lt.2 large))

end

/-! ## MOV to a control register -/

section
variable {s : State} {cr : BitVec 4} {src : Reg}

theorem exec_movToCr_of_none (none : readCr s cr = none) : exec (.movToCr cr src) s = raise .invalidOpcode s := by
  simp only [exec, execMovToCr, none, Option.isNone_none, if_true]

variable (runs : NotExiting (.movToCr cr src) s) (named : (readCr s cr).isSome = true)
include runs named

theorem exec_movToCr_of_named (privilege : cpl s = 0) :
    exec (.movToCr cr src) s = writeCr cr (crSource src s) s := by
  obtain ⟨v, value⟩ := Option.isSome_iff_exists.1 named
  simp only [exec, execMovToCr, value, Option.isNone_some, Bool.false_eq_true, if_false,
    privileged_ready _ runs privilege]

theorem exec_movToCr_unprivileged (user : cpl s ≠ 0) :
    exec (.movToCr cr src) s = raise .generalProtection s := by
  obtain ⟨v, value⟩ := Option.isSome_iff_exists.1 named
  simp only [exec, execMovToCr, value, Option.isNone_some, Bool.false_eq_true, if_false,
    privileged_unprivileged runs user]

end

theorem exec_movFromCr_unprivileged {s : State} {cr : BitVec 4} {dst : Reg} (runs : NotExiting (.movFromCr dst cr) s)
    (named : (readCr s cr).isSome = true) (user : cpl s ≠ 0) :
    exec (.movFromCr dst cr) s = raise .generalProtection s := by
  obtain ⟨v, value⟩ := Option.isSome_iff_exists.1 named
  simp only [exec, execMovFromCr, value, privileged_unprivileged runs user]

/-- Settles O47: MOV to CR0 is `writeCr0` of its source. -/
theorem movToCr0 : Obligations.MovToCr0 := by
  unfold Obligations.MovToCr0
  rintro s src v runs privilege rfl
  rw [exec_movToCr_of_named runs rfl privilege]
  exact writeCr0_eq s (crSource src s)

/-- Settles O48: MOV to CR4 is `writeCr4` of its source, and a value without VMXE is not supported. -/
theorem movToCr4 : Obligations.MovToCr4 := by
  unfold Obligations.MovToCr4
  rintro s src v runs privilege vmx rfl
  rw [exec_movToCr_of_named runs rfl privilege]
  exact ⟨writeCr4_of_admitted vmx, writeCr4_of_forbidden,
    fun vmxOperation vmxe => writeCr4_of_forbidden vmxOperation (cr4Ok_withoutVmxe vmxe)⟩

/-- Settles O49: each number that names a control register goes to its own write, the others to #UD. -/
theorem movToOtherCrs : Obligations.MovToOtherCrs := by
  unfold Obligations.MovToOtherCrs
  rintro s src v privilege rfl
  have cr8 (long : mode64 s = true) : (readCr s 8).isSome = true := by simp [readCr, long]
  refine ⟨fun runs => exec_movToCr_of_named runs rfl privilege, fun runs => exec_movToCr_of_named runs rfl privilege,
    fun runs long small => ?_, fun runs long large => ?_, fun runs vmx vmxe => ?_,
    fun cr unnamed => exec_movToCr_of_none (readCr_of_unnamed unnamed)⟩
  · exact (exec_movToCr_of_named runs (cr8 long) privilege).trans (writeCr8_of_lt small)
  · exact (exec_movToCr_of_named runs (cr8 long) privilege).trans (writeCr8_of_le large)
  · exact (exec_movToCr_of_named runs rfl privilege).trans (writeCr4_vmxe_withoutVmx vmx vmxe)

/-! ## CLTS and LMSW -/

theorem exec_clts {s : State} (runs : NotExiting .clts s) (privilege : cpl s = 0) :
    exec .clts s = writeCr0 (clearBit 3 s.cr0) s :=
  privileged_ready (fun s => writeCr0 (clearBit 3 s.cr0) s) runs privilege

theorem exec_lmsw_of_read {s : State} {src : RmOperand} {x : Word} (runs : NotExiting (.lmsw src) s)
    (privilege : cpl s = 0) (read : readRm s src 2 = .ok x) :
    exec (.lmsw src) s = writeCr0 (lmswValue s.cr0 x) s := by
  simp only [exec, execLmsw, privileged_ready _ runs privilege, read]

theorem getLsbD_lowNibble (n : Nat) : (0xF#64).getLsbD n = decide (n < 4) := by
  rw [BitVec.getLsbD_ofNat, show 15 = 2 ^ 4 - 1 from rfl, Nat.testBit_two_pow_sub_one, ← Bool.decide_and]
  exact decide_eq_decide.2 (by omega)

theorem getLsbD_lowNibble_withoutPe (n : Nat) : (0xE#64).getLsbD n = (decide (n < 4) && !decide (n = 0)) := by
  rw [show 0xE#64 = clearBit 0 0xF#64 from rfl, getLsbD_clearBit (by decide), getLsbD_lowNibble]

/-- PE is set by the source and never cleared, bits 3:1 come from it (43_base_instructions.md R216; log 37). -/
theorem getLsbD_lmswValue (cr0 x : Word) (n : Nat) : (lmswValue cr0 x).getLsbD n =
    if n = 0 then cr0.getLsbD 0 || x.getLsbD 0 else if n < 4 then x.getLsbD n else cr0.getLsbD n := by
  rw [lmswValue, BitVec.getLsbD_or, BitVec.getLsbD_and, BitVec.getLsbD_not, BitVec.getLsbD_and, getLsbD_lowNibble,
    getLsbD_lowNibble_withoutPe]
  by_cases pe : n = 0
  · simp [pe]
  by_cases low : n < 4
  · simp [pe, low]
  by_cases bit : n < 64
  · simp [pe, low, bit]
  · simp [pe, low, BitVec.getLsbD_of_ge cr0 n (by omega)]

/-- Settles O51: bit by bit the value is CR0 with TS cleared, and `writeCr0` decides. -/
theorem cltsClearsTs : Obligations.CltsClearsTs := by
  unfold Obligations.CltsClearsTs
  intro s v runs privilege bits
  obtain rfl : v = clearBit 3 s.cr0 :=
    BitVec.eq_of_getLsbD_eq fun n _ => (bits n).trans (getLsbD_clearBit (by decide) s.cr0 n).symm
  rw [exec_clts runs privilege]
  exact writeCr0_eq s _

/-- Settles O52: bit by bit the value is that of `lmswValue`, and `writeCr0` decides. -/
theorem lmswWrites : Obligations.LmswWrites := by
  unfold Obligations.LmswWrites
  intro s src x v runs privilege read bits
  obtain rfl : v = lmswValue s.cr0 x :=
    BitVec.eq_of_getLsbD_eq fun n _ => (bits n).trans (getLsbD_lmswValue s.cr0 x n).symm
  rw [exec_lmsw_of_read runs privilege read]
  exact writeCr0_eq s _

end Sys2Proof.Machine
end

section
/-! PROOFS. GETSEC, HLT, MWAIT and STI, and the privilege that base instructions ask for (43_base_instructions.md R218
to R221; 10_state.md R34, R71 to R73; log 36, log 38, log 40, log 41). -/

namespace Sys2Proof.Machine

/-! ## GETSEC -/

theorem exec_getsec_withoutSmx {s : State} (smx : s.cfg.smx = false) : exec .getsec s = raise .invalidOpcode s := by
  simp only [exec, execGetsec, smx, Bool.not_false, if_true]

/-- The leaf that EAX names decides (30_encoding.md R120). -/
theorem exec_getsec {s : State} (smx : s.cfg.smx = true) (runs : NotExiting .getsec s) : exec .getsec s =
    if (gpr .rax s).setWidth 32 = 4#32 then .next (complete { s with smxOp := true })
    else if (gpr .rax s).setWidth 32 = 5#32 then .next (complete { s with smxOp := false })
    else .refused .getsecLeafNotInSpec := by
  simp only [exec, execGetsec, smx, Bool.not_true, Bool.false_eq_true, if_false, basePrologue_ready _ runs]
  generalize (gpr .rax s).setWidth 32 = leaf
  split
  · next senter => rw [if_pos (BitVec.eq_of_toNat_eq senter)]
  · next sexit =>
    obtain rfl : leaf = 5#32 := BitVec.eq_of_toNat_eq sexit
    rfl
  · next notSenter notSexit =>
    rw [if_neg fun is => notSenter (congrArg BitVec.toNat is), if_neg fun is => notSexit (congrArg BitVec.toNat is)]

/-- Settles O53: SMX is asked for first, then the leaf. -/
theorem getsecSmx : Obligations.GetsecSmx := by
  unfold Obligations.GetsecSmx
  intro s
  refine ⟨fun smx runs leaf => ?_, fun smx runs leaf => ?_, fun smx runs other => ?_, exec_getsec_withoutSmx⟩
  · rw [exec_getsec smx runs, if_pos leaf]
    rfl
  · rw [exec_getsec smx runs, leaf]
    rfl
  · simp only [List.mem_cons, List.not_mem_nil, or_false, not_or] at other
    obtain ⟨notSenter, notSexit⟩ := other
    rw [exec_getsec smx runs, if_neg notSenter, if_neg notSexit]

/-! ## HLT and MWAIT -/

theorem exec_hlt {s : State} (runs : NotExiting .hlt s) (privilege : cpl s = 0) :
    exec .hlt s = .next (complete { s with activity := .hlt }) :=
  privileged_ready (fun s => .next (complete { s with activity := .hlt })) runs privilege

theorem exec_mwait {s : State} (runs : NotExiting .mwait s) :
    exec .mwait s = .next (complete { s with mwaitIdle := s.cfg.mwaitIdles }) :=
  basePrologue_ready (fun s => .next (complete { s with mwaitIdle := s.cfg.mwaitIdles })) runs

/-- Settles O54: HLT writes the activity state, MWAIT the condition beside it. -/
theorem hltAndMwait : Obligations.HltAndMwait := by
  unfold Obligations.HltAndMwait
  exact fun s => ⟨exec_hlt, exec_mwait⟩

/-! ## STI -/

theorem exec_sti_allowed {s : State} (runs : NotExiting .sti s) (allowed : stiAllowed s = true) : exec .sti s = .next
    { complete { s with rflags := setBit 9 s.rflags } with blockingBySti := !s.rflags.getLsbD 9 } := by
  simp only [exec, execSti, basePrologue_ready _ runs, allowed, if_true]

theorem exec_sti_forbidden {s : State} (runs : NotExiting .sti s) (forbidden : stiAllowed s = false) :
    exec .sti s = raise .generalProtection s := by
  simp only [exec, execSti, basePrologue_ready _ runs, forbidden, Bool.false_eq_true, if_false]

/-- Settles O55: bit by bit the flags are RFLAGS with bit 9 set, and CPL is compared with IOPL. -/
theorem stiSetsFlag : Obligations.StiSetsFlag := by
  unfold Obligations.StiSetsFlag
  intro s f runs bits
  obtain rfl : f = setBit 9 s.rflags :=
    BitVec.eq_of_getLsbD_eq fun n bit => (bits n bit).trans (getLsbD_setBit (by decide) s.rflags n).symm
  exact ⟨fun low => exec_sti_allowed runs (decide_eq_true low),
    fun high => exec_sti_forbidden runs (decide_eq_false (Nat.not_le.2 high))⟩

/-! ## Privilege -/

/-- Settles O56: each of these instructions begins with `privileged`, the moves once the register exists. -/
theorem basePrivilege : Obligations.BasePrivilege := by
  unfold Obligations.BasePrivilege
  rintro i s runs user (rfl | rfl | rfl | ⟨o, rfl⟩ | ⟨n, r, rfl, named⟩ | ⟨r, n, rfl, named⟩)
  case inr.inr.inr.inr.inl => exact exec_movToCr_unprivileged runs named user
  case inr.inr.inr.inr.inr => exact exec_movFromCr_unprivileged runs named user
  all_goals
    simp only [exec, execWrmsr, execClts, execHlt, execLmsw, privileged_unprivileged runs user, raise_eq]

end Sys2Proof.Machine
end

section
/-! PROOFS. Events at an instruction boundary, and the hand-over of a raised exception: each has its own effect, or a VM
exit takes its place (60_exceptions.md R232, R237, R240 to R244, R256, R268; 42_vm_entry_exit.md R195, R201). -/

namespace Sys2Proof.Machine

/-! ## VM exits at a boundary -/

theorem savedVal_bookkeeping (s : State) (l : List (Option Event)) (b : Bool) (e : List EntryVerdict) (c : Trigger)
    (g : GuestReg) : savedVal { s with schedule := l, initPending := b, entryVerdicts := e } c g = savedVal s c g := by
  cases g with
  | rip => exact exitRip_bookkeeping s l b e c
  | _ => rfl

/-- The schedule, a pending INIT and the answers to come are no part of what a VM exit leads to. -/
theorem Exited.of_bookkeeping (s : State) (l : List (Option Event)) (b : Bool) (e : List EntryVerdict) {t : State}
    {c : Trigger} {p : Word} {r : ExitRecord}
    (h : Exited c p r { s with schedule := l, initPending := b, entryVerdicts := e } t) : Exited c p r s t :=
  { h with
    saved := fun g saves => (h.saved g saves).trans (by rw [savedVal_bookkeeping])
    recorded := by simpa only [Recorded, evalTerm_bookkeeping] using h.recorded }

section
variable {s : State} {c : ExitCause} {l : List (Option Event)} {o : Result}

theorem exitOr_stays (stays : s.vmxMode = .nonRoot → exits s (.plain c) = false) :
    exitOr c { s with schedule := l } o = o := by
  refine exitOr_of_not o (not_or_of_imp fun guest => ?_)
  rw [exits_bookkeeping]
  exact stays guest

theorem exited_exitOr {p : Word} {r : ExitRecord} (guest : s.vmxMode = .nonRoot)
    (exiting : exits s (.plain c) = true) (current : s.currentVmcs = some p)
    (record : lookupExitInfo c s.cfg.exitInfo = some r) :
    ∃ t, exitOr c { s with schedule := l } o = .next t ∧ Exited (.plain c) p r s t := by
  obtain ⟨t, exit, exited⟩ := exited_vmExit (s := { s with schedule := l }) (c := .plain c) current record
  have still : exits { s with schedule := l } (.plain c) = true := by rwa [exits_bookkeeping]
  exact ⟨t, (exitOr_exits (s := { s with schedule := l }) o guest still).trans exit,
    .of_bookkeeping s l s.initPending s.entryVerdicts exited⟩

end

/-! ## INIT -/

theorem takeInit_root {s : State} (root : s.vmxMode = .root) : takeInit s = .next { s with initPending := true } := by
  simp only [takeInit, root]

theorem takeInit_outside {s : State} (outside : s.vmxMode = .outside) : takeInit s = .refused .initOutsideVmx := by
  simp only [takeInit, outside]

theorem takeInit_guest {s : State} (guest : s.vmxMode = .nonRoot) :
    takeInit s = vmExit (.plain .init) { s with initPending := false } := by
  simp only [takeInit, guest]

/-- In a guest INIT is a VM exit, after which it is not pending any more (60_exceptions.md R242, R254). -/
theorem exited_takeInit {s : State} {l : List (Option Event)} {p : Word} {r : ExitRecord} (guest : s.vmxMode = .nonRoot)
    (current : s.currentVmcs = some p) (record : lookupExitInfo .init s.cfg.exitInfo = some r) :
    ∃ t, takeInit { s with schedule := l } = .next t ∧ Exited (.plain .init) p r s t ∧ t.initPending = false := by
  obtain ⟨t, exit, exited⟩ := exited_vmExit (s := { s with schedule := l, initPending := false }) (c := .plain .init)
    current record
  have handled : t.initPending = false := by
    obtain ⟨p, r, -, -, rfl⟩ := vmExit_next exit
    rfl
  exact ⟨t, (takeInit_guest (s := { s with schedule := l }) guest).trans exit,
    .of_bookkeeping s l false s.entryVerdicts exited, handled⟩

theorem proceed_unblockedInit {s : State} (pending : s.initPending = true) (unblocked : s.vmxMode ≠ .root) :
    proceed s = takeInit s := by
  simp [proceed, pending, unblocked]

/-- Settles O57: a scheduled and a pending INIT both come down to `takeInit`, which goes by the VMX mode. -/
theorem initSignal : Obligations.InitSignal := by
  unfold Obligations.InitSignal
  intro s rest raised
  refine ⟨fun due root => (step_event raised due).trans (takeInit_root root),
    fun due outside => (step_event raised due).trans (takeInit_outside outside),
    fun p r due guest current record => ?_⟩
  have taken : ∃ l, step s = takeInit { freshen s with schedule := l } := by
    rcases due with scheduled | ⟨quiet, pending⟩
    · exact ⟨rest, step_event raised scheduled⟩
    · have unblocked : (freshen s).vmxMode ≠ .root := by simp [guest]
      exact ⟨s.schedule, (step_quiet raised quiet).trans (proceed_unblockedInit pending unblocked)⟩
  obtain ⟨l, taken⟩ := taken
  rw [taken]
  exact exited_takeInit (s := freshen s) guest current record

/-! ## A20M -/

theorem takeEvent_a20m_within {s : State} {enter : Bool} (within : s.vmxMode ≠ .outside) :
    takeEvent (.a20m enter) s = .next s :=
  congrArg Host.Outcome.next (if_pos (decide_eq_true within))

theorem takeEvent_a20m_outside {s : State} {enter : Bool} (outside : s.vmxMode = .outside) :
    takeEvent (.a20m enter) s = .next { s with a20m := enter } :=
  congrArg Host.Outcome.next (if_neg (by simp [inVmx, outside]))

/-- Settles O58: the interrupt acts only outside VMX operation. -/
theorem a20mInterrupt : Obligations.A20mInterrupt := by
  unfold Obligations.A20mInterrupt
  intro s enter rest raised due
  exact ⟨fun within => (step_event raised due).trans (takeEvent_a20m_within within),
    fun outside => (step_event raised due).trans (takeEvent_a20m_outside outside)⟩

/-! ## Triple fault, SIPI, waking, unnamed events -/

theorem takeSipi_waiting {s : State} {l : List (Option Event)}
    (stays : s.vmxMode = .nonRoot → exits s (.plain .sipi) = false) (waits : s.activity = .waitForSipi) :
    takeSipi { s with schedule := l } = .next (sipiStart { s with schedule := l }) :=
  (exitOr_stays stays).trans (if_pos waits)

theorem takeSipi_notWaiting {s : State} {l : List (Option Event)}
    (stays : s.vmxMode = .nonRoot → exits s (.plain .sipi) = false) (busy : s.activity ≠ .waitForSipi) :
    takeSipi { s with schedule := l } = .refused .sipiNotWaiting :=
  (exitOr_stays stays).trans (if_neg busy)

/-- Settles O59: an event that may cause a VM exit asks `EXITING` first; where it causes none, and for waking, the event
has its own effect. -/
theorem activityEvents : Obligations.ActivityEvents := by
  unfold Obligations.ActivityEvents
  intro s rest raised
  refine ⟨fun due stays => ?tripleFault, fun due waits stays => ?sipi, fun due busy stays => ?sipiNotWaiting,
    fun due => step_event raised due, fun n due stays => ?other, fun c p r due guest exiting current record => ?exit⟩
  case tripleFault => exact (step_event raised due).trans (exitOr_stays (s := freshen s) stays)
  case sipi =>
    refine ⟨sipiStart { freshen s with schedule := rest }, ?_, rfl, rfl, rfl, rfl, rfl, rfl⟩
    exact (step_event raised due).trans (takeSipi_waiting (s := freshen s) stays waits)
  case sipiNotWaiting => exact (step_event raised due).trans (takeSipi_notWaiting (s := freshen s) stays busy)
  case other => exact (step_event raised due).trans (exitOr_stays (s := freshen s) stays)
  case exit =>
    have asks : ∃ o, step s = exitOr c { freshen s with schedule := rest } o := by
      rcases due with ⟨due, rfl⟩ | ⟨due, rfl⟩ | ⟨n, due, rfl⟩ <;> exact ⟨_, step_event raised due⟩
    obtain ⟨o, asks⟩ := asks
    rw [asks]
    exact exited_exitOr (s := freshen s) guest exiting current record

/-! ## Raised exceptions -/

/-- Settles O60: the hand-over is a VM exit where the controls say so, else it is refused. -/
theorem exceptionHandOver : Obligations.ExceptionHandOver := by
  unfold Obligations.ExceptionHandOver
  intro s e raised
  rw [step_raised raised]
  refine ⟨fun stays => exitOr_of_not _ stays, fun p r guest exiting current record => ?_⟩
  exact exited_exitOr (s := freshen s) (l := s.schedule) guest exiting current record

end Sys2Proof.Machine
end

section
/-! PROOFS. A step that runs the instruction at the program counter, the state after reset, and the resets
(10_state.md R41; 70_reset_and_hazards.md R270 to R278, R299). -/

namespace Sys2Proof.Machine

/-! ## 64-bit mode -/

section
variable {s : State} (long : mode64 s = true)
include long

theorem codeSize_of_mode64 : codeSize s = .code64 := if_pos long

theorem wrapMode_of_mode64 (v : Word) : wrapMode s v = v := if_pos long

theorem segUsable_of_mode64 (g : Seg) : segUsable s g = true := by simp [segUsable, long]

end

/-! ## The instruction at the program counter -/

theorem fetch_of_decode {s : State} {i : Instr} {rest : List Byte} (usable : segUsable s .cs = true)
    (decodes : decode (codeSize s) (fetchBytes s maxLength (fetchAddr s)).1 = .ok (i, rest)) :
    fetch s = .ok (.instr i, (fetchBytes s maxLength (fetchAddr s)).1.length - rest.length) := by
  simp only [fetch, usable, if_true, decodeFetched, decodes]

/-- Settles O6: with nothing else due the step fetches, and the instruction runs with the next one's address ready. -/
theorem stepRunsDecoded : Obligations.StepRunsDecoded := by
  unfold Obligations.StepRunsDecoded
  intro s i rest raised schedule pending active awake usable decodes
  have fetched : fetch (freshen s) = .ok (.instr i, _) := fetch_of_decode usable decodes
  calc step s = proceed (freshen s) := step_quiet raised schedule
    _ = runInstr (freshen s) := proceed_executing pending active awake
    _ = exec i (withNext _ (freshen s)) := runInstr_of_fetch fetched

/-- Settles O7: the encoding decodes to its instruction, and what is left of the bytes tells its length. -/
theorem stepRunsEncoded : Obligations.StepRunsEncoded := by
  unfold Obligations.StepRunsEncoded
  intro s i rest raised schedule pending active awake long wf spelled bytes
  have decodes : decode (codeSize s) (fetchBytes (freshen s) maxLength (fetchAddr s)).1 = .ok (i, rest) := by
    rw [codeSize_of_mode64 long, bytes]
    exact decode_encode .code64 i rest wf spelled
  have runs := stepRunsDecoded s i rest raised schedule pending active awake (segUsable_of_mode64 long .cs) decodes
  rwa [wrapMode_of_mode64 long, bytes, List.length_append, Nat.add_sub_cancel] at runs

/-! ## What a reset leaves -/

/-- The registers that 70_reset_and_hazards.md R270 and R272 to R277 give a value, IA32_FEATURE_CONTROL apart; the
value of TR's null selector is log 2's. -/
structure AtReset (t : State) : Prop where
  outside : t.vmxMode = .outside
  current : t.currentVmcs = none
  active : t.active = []
  smx : t.smxOp = false
  a20m : t.a20m = false
  activity : t.activity = .active
  sti : t.blockingBySti = false
  vmxe : t.cr4.getLsbD 13 = false
  selector : t.segs.tr.selector = 0
  usable : t.segs.tr.access.getLsbD 16 = false

theorem atReset_resetTo (fc : Word) (s : State) : AtReset (resetTo fc s) where
  outside := rfl
  current := rfl
  active := rfl
  smx := rfl
  a20m := rfl
  activity := rfl
  sti := rfl
  vmxe := show resetCr4.getLsbD 13 = false by decide
  selector := rfl
  usable := show resetTrAccess.getLsbD 16 = false by decide

/-- The state after reset is a fixed point of a power-up reset, so what a reset leaves holds of it. -/
theorem resetTo_reset : resetTo 0 State.reset = State.reset := rfl

theorem atReset_reset : AtReset State.reset := resetTo_reset ▸ atReset_resetTo 0 State.reset

/-- The VMCSs that were active are undefined (70_reset_and_hazards.md R272; log 47). -/
theorem vmcsAt_resetTo (fc : Word) (s : State) (p : Word) :
    vmcsAt (resetTo fc s) p = if p ∈ s.active then undefinedVmcs (s.draws + 1) else vmcsAt s p :=
  vmcsAt_forgetActive s (s.draws + 1) p

theorem launch_resetTo_of_active {s : State} {p : Word} (fc : Word) (active : p ∈ s.active) :
    (vmcsAt (resetTo fc s) p).launch = .undefined := by
  rw [vmcsAt_resetTo, if_pos active]
  rfl

theorem warmFeatureControl_eq (s : State) : warmFeatureControl s
    = if s.featureControl.getLsbD 0 = true ∧ s.cfg.warmResetClearsFc = false then s.featureControl else 0 := by
  simp only [warmFeatureControl, Bool.and_eq_true, Bool.not_eq_true']

/-! ## Reset -/

/-- Settles O9: the registers as any reset leaves them; the tables of VMCSs and of memory are empty. -/
theorem resetValues : Obligations.ResetValues := by
  unfold Obligations.ResetValues
  obtain ⟨outside, current, active, smx, a20m, activity, sti, vmxe, selector, usable⟩ := atReset_reset
  exact ⟨outside, rfl, current, active, smx, a20m, activity, sti, vmxe, selector, usable, fun _ => rfl, fun _ => rfl⟩

/-- Settles O10: both events lead to `resetTo`, with 0 or with what a warm reset keeps of IA32_FEATURE_CONTROL. -/
theorem resetEvents : Obligations.ResetEvents := by
  unfold Obligations.ResetEvents
  intro s rest raised
  refine ⟨fun due => ⟨_, step_event raised due, ?powerUp⟩, fun due => ⟨_, step_event raised due, ?warm⟩⟩
  case powerUp =>
    obtain ⟨outside, current, active, smx, a20m, activity, sti, vmxe, selector, usable⟩ :=
      atReset_resetTo 0 { freshen s with schedule := rest }
    exact ⟨rfl, outside, current, active, smx, a20m, activity, sti, vmxe, selector, usable, rfl,
      fun _ was => launch_resetTo_of_active 0 was⟩
  case warm =>
    obtain ⟨outside, current, active, smx, a20m, activity, sti, vmxe, selector, usable⟩ :=
      atReset_resetTo (warmFeatureControl { freshen s with schedule := rest }) { freshen s with schedule := rest }
    exact ⟨outside, current, active, smx, a20m, activity, sti, vmxe, selector, usable, rfl,
      fun _ was => launch_resetTo_of_active _ was, warmFeatureControl_eq { freshen s with schedule := rest }⟩

/-- The invariants of VMX operation hold outside it; the tables are empty (log 4). -/
theorem legalState_reset : LegalState State.reset where
  config := ⟨by decide, by decide, by decide⟩
  memory := reset_memory_wf
  vmcss := rfl
  otherMsrs := rfl
  active := rfl
  current _ none := by cases none
  fixedBits within := by cases within
  a20m within := by cases within
  guest within := by cases within
  smx _ := rfl
  featureControl := featureControlLegal_zero familyConfig

/-- Settles O11: the widths are those that every reset leaves. -/
theorem resetIsLegal : Obligations.ResetIsLegal := by
  unfold Obligations.ResetIsLegal
  exact ⟨legalState_reset, resetTo_reset ▸ inWidths_resetTo 0 State.reset⟩

end Sys2Proof.Machine
end
